-- ==== Sys2Proof/Word.lean ====
section
/-! DEFINITION. The two widths VRAC's frames and registers are made of (00_scope.md R10). -/

namespace Sys2Proof

/-- A byte, 8 bits; read as an unsigned number it is a sample, 0 to 255 (R10). -/
abbrev Byte := BitVec 8

/-- A 32-bit unsigned value: an operand of a frame, an address, a length, a rate (R8 `ADDR_BITS`, R70). -/
abbrev Word := BitVec 32

end Sys2Proof
end

