-- ==== Sys2Proof/Config.lean ====
section
/-! DEFINITION. The parameters of R8, and the values the spec leaves to the environment (opaque: nothing evaluates them). -/

namespace Sys2Proof

/-- What a tie of `round(1_000_000 / sample_rate)` does (R8 `ROUND_TIE`, decision D8). -/
inductive RoundTie where
  | even   -- ties to the even neighbour, the spec's decided value
  | up     -- ties to the larger neighbour, the alternative 91_not_in_source.md N8 warns of
  deriving DecidableEq, Repr

/-- The parameters of R8.  A machine carries its own in `State.cfg`, which no step writes, so a statement about every
state is a statement about every value of every parameter (assumption 1).  `ADDR_BITS` is the type `Word`; `TICK_UNIT` is
the constant `ticksPerSecond`; `BOOT_DELAY` is a duration and `FLT_NUM` is EXACT (assumptions 2, 3). -/
structure Params where
  tickBits       : Nat       -- TICK_BITS, OPEN, at least 3
  adcBits        : Nat       -- ADC_BITS, at least 8
  roundTie       : RoundTie  -- ROUND_TIE
  dutyBits       : Nat       -- DUTY_BITS
  scale          : Nat       -- SCALE
  neutral        : Nat       -- NEUTRAL
  carrierHz      : Word      -- CARRIER_HZ
  sampleMemBytes : Nat       -- SAMPLE_MEM_BYTES, OPEN, at most 2^32
  timerMaxHz     : Nat       -- TIMER_MAX_HZ, OPEN, 1 to 2^32 - 1
  alphaFracBits  : Nat       -- ALPHA_FRAC_BITS
  deriving DecidableEq, Repr

/-- The modulus `M = 2^TICK_BITS` of the tick counter (R8). -/
abbrev Params.modulus (p : Params) : Nat := 2 ^ p.tickBits

/-- The constraints R8 and decision D13 put on the parameters: `TICK_BITS >= 3`, `ADC_BITS >= 8`,
`NEUTRAL = 128 * SCALE`, every duty below `2^DUTY_BITS`, `SAMPLE_MEM_BYTES <= 2^32`, `1 <= TIMER_MAX_HZ <= 2^32 - 1`. -/
abbrev Params.wf (p : Params) : Prop :=
  3 ≤ p.tickBits ∧ 8 ≤ p.adcBits ∧ p.neutral = 128 * p.scale ∧ p.neutral < 2 ^ p.dutyBits ∧
  255 * p.scale < 2 ^ p.dutyBits ∧ p.sampleMemBytes ≤ 2 ^ 32 ∧ 1 ≤ p.timerMaxHz ∧ p.timerMaxHz ≤ 2 ^ 32 - 1

/-- The parameters of the machine `State.reset` is: the values R8 decides, and for the four OPEN ones the values the
vectors of 95_test_vectors.md use (assumption 1, DESIGN CHOICE). -/
def Config.params : Params where
  tickBits := 30
  adcBits := 16
  roundTie := .even
  dutyBits := 16
  scale := 256
  neutral := 32768
  carrierHz := 20000#32
  sampleMemBytes := 65536
  timerMaxHz := 1000000
  alphaFracBits := 16

/-- What a `StorageWrite` does: it stores, or it fails and leaves under the identifier nothing, the old stream, or a
prefix of the new one (R49, 93_implementation_defined.md U6). -/
inductive StoreResult where
  | stored
  | failedAbsent
  | failedOld
  | failedPrefix (n : Nat)
  deriving DecidableEq, Repr, Inhabited

/-! The environment's answers where no scripted input is left (R35, R158; assumption 4).  The argument is the number of
answers drawn before. -/

/-- The fault oracle of R158: does the access fail? -/
opaque Config.freeFault : Nat → Bool

/-- How far the tick counter's true time moves before a read of `PORT_TICK` (R112). -/
opaque Config.freeTickGap : Nat → Nat

/-- A converter reading before it is cut to `ADC_BITS` (R112, R177). -/
opaque Config.freeAdc : Nat → Nat

/-- Does a `StorageRead` fail (R49)? -/
opaque Config.freeReadFails : Nat → Bool

/-- The outcome of a `StorageWrite` (R49, U6). -/
opaque Config.freeStoreResult : Nat → StoreResult

/-- What a sample byte nothing has written since the `epoch`-th reset reads as, by epoch and address (R64, U1: any
value, never a chosen one; assumption 5). -/
opaque Config.unwrittenByte : Nat → Nat → Byte

/-- What the 32-bit register `cap.count` (R15) takes for a number of samples that 32 bits cannot hold (assumption 6). -/
opaque Config.freeCount : Nat → Word

end Sys2Proof
end

