-- ==== Sys2Proof/Syntax.lean ====
section
/-! DEFINITION. The nine operations of spec/opcode_table.json: seven commands (30_encoding.md R68) and two events (R75). -/

namespace Sys2Proof

/-- One constructor per row of the opcode table, with the operands of R69 in frame order. -/
inductive Instr where
  | start (base len sampleRate : Word) (loop : Byte)   -- 0x10, R133
  | stop                                               -- 0x11, R145
  | status                                             -- 0x12, R146
  | capture (dst sampleRate duration : Word)           -- 0x20, R111
  | smooth (base len alphaQ : Word)                    -- 0x30, R122
  | decode (pathId dst : Word)                         -- 0x40, R91
  | encode (pathId base len sampleRate : Word)         -- 0x41, R98
  | tick                                               -- 0x80, event, R141
  | cancel                                             -- 0x81, event, R147
  deriving DecidableEq, Repr

/-- The operation without its operands: one name per row of the table. -/
inductive Opcode where
  | start | stop | status | capture | smooth | decode | encode | tick | cancel
  deriving DecidableEq, Repr

end Sys2Proof
end

