-- ==== Sys2Proof/WellFormed.lean ====
section
/-! DEFINITION. What an instruction must satisfy beyond its operands' widths, which their types hold. -/

namespace Sys2Proof

/-- The reserved bits of a frame are zero: `loop[7:1]` of START (R70, R76).  VRAC still takes such a frame whole and
answers it with ArgumentError (R134), so this is a check on terms, not on what the decoder reads. -/
def Instr.WellFormed : Instr → Bool
  | .start _ _ _ loop => loop.extractLsb' 1 7 == 0#7
  | .stop => true
  | .status => true
  | .capture _ _ _ => true
  | .smooth _ _ _ => true
  | .decode _ _ => true
  | .encode _ _ _ _ => true
  | .tick => true
  | .cancel => true

/-- The instruction may stand in a command frame: "Events are not command frames" (R75, R76). -/
def Instr.isCommand : Instr → Bool
  | .start _ _ _ _ => true
  | .stop => true
  | .status => true
  | .capture _ _ _ => true
  | .smooth _ _ _ => true
  | .decode _ _ => true
  | .encode _ _ _ _ => true
  | .tick => false
  | .cancel => false

end Sys2Proof
end

