-- ==== Sys2Proof/Decode.lean ====
section
/-! DEFINITION. Byte order (R10, R51), the decoder of command frames and event codes, total on any bytes, and the encoder
(30_encoding.md R66 to R71, R75 to R77). -/

namespace Sys2Proof

/-- `u16le(b0, b1) = b0 + 256*b1` (R10). -/
def u16le (b0 b1 : Byte) : BitVec 16 :=
  BitVec.ofNat 16 (b0.toNat + 256 * b1.toNat)

/-- `u32le(b0, b1, b2, b3) = b0 + 256*b1 + 65536*b2 + 16777216*b3` (R10). -/
def u32le (b0 b1 b2 b3 : Byte) : Word :=
  BitVec.ofNat 32 (b0.toNat + 256 * b1.toNat + 65536 * b2.toNat + 16777216 * b3.toNat)

/-- `le16(v)`: the two bytes of `v`, lowest first (R10). -/
def le16 (v : BitVec 16) : List Byte :=
  [BitVec.ofNat 8 v.toNat, BitVec.ofNat 8 (v.toNat / 256)]

/-- `le32(v)`: the four bytes of `v`, lowest first (R10). -/
def le32 (v : Word) : List Byte :=
  [BitVec.ofNat 8 v.toNat, BitVec.ofNat 8 (v.toNat / 256), BitVec.ofNat 8 (v.toNat / 65536),
    BitVec.ofNat 8 (v.toNat / 16777216)]

/-- The byte at an offset; used only at offsets below the length. -/
def byteAt (bs : List Byte) (off : Nat) : Byte :=
  bs.getD off 0#8

/-- The 16-bit little-endian field at an offset. -/
def field16 (bs : List Byte) (off : Nat) : BitVec 16 :=
  u16le (byteAt bs off) (byteAt bs (off + 1))

/-- The 32-bit little-endian field at an offset (R71: unsigned, nothing extended, scaled or shifted). -/
def field32 (bs : List Byte) (off : Nat) : Word :=
  u32le (byteAt bs off) (byteAt bs (off + 1)) (byteAt bs (off + 2)) (byteAt bs (off + 3))

/-- The opcode map by the two fields of the opcode byte, `unit = opcode[7:4]` and `fn = opcode[3:0]` (R67, R68, R75);
every other byte is reserved (R76). -/
def opcodeOf (op : Byte) : Option Opcode :=
  match (op.extractLsb' 4 4).toNat, (op.extractLsb' 0 4).toNat with
  | 1, 0 => some .start
  | 1, 1 => some .stop
  | 1, 2 => some .status
  | 2, 0 => some .capture
  | 3, 0 => some .smooth
  | 4, 0 => some .decode
  | 4, 1 => some .encode
  | 8, 0 => some .tick
  | 8, 1 => some .cancel
  | _, _ => none

/-- The frame length in bytes (R69); an event is its code byte alone (R75). -/
def frameLength : Opcode → Nat
  | .start => 14
  | .stop => 1
  | .status => 1
  | .capture => 13
  | .smooth => 13
  | .decode => 9
  | .encode => 17
  | .tick => 1
  | .cancel => 1

/-- The operands of a frame at the offsets of R69; `bs` is at least the frame long. -/
def operandsOf (op : Opcode) (bs : List Byte) : Instr :=
  match op with
  | .start => .start (field32 bs 1) (field32 bs 5) (field32 bs 9) (byteAt bs 13)
  | .stop => .stop
  | .status => .status
  | .capture => .capture (field32 bs 1) (field32 bs 5) (field32 bs 9)
  | .smooth => .smooth (field32 bs 1) (field32 bs 5) (field32 bs 9)
  | .decode => .decode (field32 bs 1) (field32 bs 5)
  | .encode => .encode (field32 bs 1) (field32 bs 5) (field32 bs 9) (field32 bs 13)
  | .tick => .tick
  | .cancel => .cancel

/-- What the decoder reads at the head of a byte sequence. -/
inductive Decoded where
  | incomplete                                -- fewer bytes than the frame's length: not a frame yet (R76)
  | reserved (op : Byte)                      -- a reserved first byte (R76)
  | instr (i : Instr) (rest : List Byte)      -- an instruction, and the bytes after it
  deriving DecidableEq, Repr

/-- The decoder over the whole 8-bit code space of the table, the event codes of R75 included. -/
def decode (bs : List Byte) : Decoded :=
  match bs with
  | [] => .incomplete
  | op :: _ =>
    match opcodeOf op with
    | none => .reserved op
    | some o =>
      if bs.length < frameLength o then .incomplete
      else .instr (operandsOf o bs) (bs.drop (frameLength o))

/-- The decoder of the command port: as `decode`, but an event code there is reserved: "that includes 0x80 and 0x81 when
they arrive at the command port" (R76). -/
def decodeCommand (bs : List Byte) : Decoded :=
  match decode bs with
  | .incomplete => .incomplete
  | .reserved op => .reserved op
  | .instr i rest => if i.isCommand then .instr i rest else .reserved (byteAt bs 0)

/-- The opcode byte of R68 and R75. -/
def opcodeByte : Opcode → Byte
  | .start => 0x10#8
  | .stop => 0x11#8
  | .status => 0x12#8
  | .capture => 0x20#8
  | .smooth => 0x30#8
  | .decode => 0x40#8
  | .encode => 0x41#8
  | .tick => 0x80#8
  | .cancel => 0x81#8

/-- Which row of the table an instruction is. -/
def Instr.opcode : Instr → Opcode
  | .start _ _ _ _ => .start
  | .stop => .stop
  | .status => .status
  | .capture _ _ _ => .capture
  | .smooth _ _ _ => .smooth
  | .decode _ _ => .decode
  | .encode _ _ _ _ => .encode
  | .tick => .tick
  | .cancel => .cancel

/-- The operand bytes of a frame, in the order of R69, "with no padding between them" (R66). -/
def operandBytes : Instr → List Byte
  | .start base len sampleRate loop => le32 base ++ le32 len ++ le32 sampleRate ++ [loop]
  | .stop => []
  | .status => []
  | .capture dst sampleRate duration => le32 dst ++ le32 sampleRate ++ le32 duration
  | .smooth base len alphaQ => le32 base ++ le32 len ++ le32 alphaQ
  | .decode pathId dst => le32 pathId ++ le32 dst
  | .encode pathId base len sampleRate => le32 pathId ++ le32 base ++ le32 len ++ le32 sampleRate
  | .tick => []
  | .cancel => []

/-- The bytes of an instruction: a command frame (R66, R69) or an event's code (R75). -/
def encode (i : Instr) : List Byte :=
  opcodeByte i.opcode :: operandBytes i

/-- The longest instruction: ENCODE's 17-byte frame (R69). -/
def longestFrame : Nat := 17

/-- The bytes of a table word: byte `k` is bits `8k+7..8k` of `w`, every bit from `nbits` up read as 0. -/
def tableBytes (nbits w : Nat) : List Byte :=
  (List.range longestFrame).map fun k => BitVec.ofNat 8 (w % 2 ^ nbits / 2 ^ (8 * k))

/-- The instruction the decoder reads from a table word. -/
def decodeTableWord (nbits w : Nat) : Option Instr :=
  match decode (tableBytes nbits w) with
  | .incomplete => none
  | .reserved _ => none
  | .instr i _ => some i

end Sys2Proof
end

