-- ==== Sys2Proof/Machine/State.lean ====
section
/-! DEFINITION. The state of VRAC (10_state.md R13, R32), the inputs its steps read (R35), and the machine after reset (R40). -/

namespace Sys2Proof.Machine

/-- The engine state `pbe.state` (R22); its codes 0 to 4 are `Engine.code`.  Codes 5 to 7 never occur (U12). -/
inductive Engine where
  | idle | playing | finished | stopped | faulted
  deriving DecidableEq, Repr

/-- PBE's registers: the engine state and the Playback Cursor (R20, R22, R23, R24).  They are all the "flags" PBE's
operations write; there is no side-effect flag (R131). -/
structure Pbe where
  state    : Engine
  bufBase  : Word
  bufLen   : Word
  position : Word
  loop     : Bool
  deriving DecidableEq, Repr

/-- The periodic timer as VRAC sees it (R25, R26, R174). -/
structure Timer where
  armed   : Bool
  rate    : Word
  pending : Bool
  deriving DecidableEq, Repr

/-- The PWM channel's two registers (R27, R176); `duty` is `DUTY_BITS` wide (`Safety.Inv`). -/
structure Pwm where
  freq : Word
  duty : Nat
  deriving DecidableEq, Repr

/-- CAP's registers (R15, R29); `nextDeadline` and `period` are `TICK_BITS` wide (`Safety.Inv`), `index` and `count`
`ADDR_BITS` (R8). -/
structure Cap where
  nextDeadline : Nat
  period       : Nat
  index        : Word
  count        : Word
  deriving DecidableEq, Repr

/-- FLT's registers (R16): the accumulator is an exact rational (R124). -/
structure Flt where
  y     : Rat
  index : Word
  deriving DecidableEq, Repr

/-- WVC's working register (R17). -/
structure Wvc where
  offset : Word
  deriving DecidableEq, Repr

/-- The writable registers of the WAV Descriptor (R30); the three hardwired ones are `Wd.bitsPerSample`, `Wd.channels`
and `Wd.audioFormat` (Machine/Flags.lean). -/
structure Wd where
  sampleRate  : Word
  sampleCount : Word
  deriving DecidableEq, Repr

/-- The boot register (R31). -/
structure Boot where
  graceDone : Bool
  deriving DecidableEq, Repr

/-- `fg.op`, the foreground's own progress (R32): which operation is in progress and at which micro-step (R58). -/
inductive FgOp where
  | idle
  | startHeld (base len sampleRate : Word) (loop : Byte)   -- checks passed, held by the boot grace period (R137)
  | captureWait (dst : Word)                               -- the next micro-step is one poll of `PORT_TICK` (R111 step 1)
  | captureTake (dst : Word)                               -- the next micro-step takes one sample (R111 steps 2 and 3)
  deriving DecidableEq, Repr

/-- Sample memory (R33): the bytes written since the last reset, addresses strictly rising.  An unlisted byte has no
value of its own (R64); `epoch` counts resets, so that what one reads as may differ from reset to reset (assumption 5). -/
structure SampleMem where
  epoch : Nat
  cells : List Host.Cell
  deriving DecidableEq, Repr

/-- FormatError subcodes (R74). -/
inductive FormatError where
  | badRiffMarker | badWaveMarker | badFmtMarker | fmtTruncated | notPcm | badChannels | badBitDepth
  | dataChunkMissing | dataTruncated
  deriving DecidableEq, Repr

/-- Response frames (R72, R73); their bytes are `Response.bytes`. -/
inductive Response where
  | ok
  | decoded (len sampleRate : Word)
  | captured (count : Word)
  | status (state : Engine)
  | formatError (e : FormatError)
  | ioError
  | hardwareFault
  | argumentError
  | busy
  | illegalCommand
  | interrupted
  deriving DecidableEq, Repr

/-- The byte command port (R66): bytes received and not yet taken, oldest first; response frames given, oldest first. -/
structure CmdPort where
  rx : List Byte
  tx : List Response
  deriving DecidableEq, Repr

/-- A write to one of the three write ports (R28, R178). -/
inductive PortWrite where
  | freq (hz : Word)
  | duty (v : Nat)
  | arm (rate : Word)
  | disarm
  deriving DecidableEq, Repr

/-- One access to a device: a port write, TICK's sample fetch (R140), a read of the tick counter, a converter read. -/
inductive Access where
  | write (w : PortWrite)
  | fetch (i : Word)
  | readTick (v : Nat)
  | readAdc (v : Nat)
  deriving DecidableEq, Repr

/-- One entry of the access history: the access, and whether it succeeded. -/
structure AccessEvent where
  access : Access
  ok     : Bool
  deriving DecidableEq, Repr

/-- What the outside world does at one micro-step boundary: a timer period elapses (R160), a cancellation signal arrives
(R162), the grace period ends (R189), the host sends bytes (R66).  `during` is a period that elapses later, while the
micro-step or event taken at this boundary runs (R161). -/
structure Arrivals where
  period : Bool
  cancel : Bool
  grace  : Bool
  bytes  : List Byte
  during : Bool
  deriving DecidableEq, Repr

/-- The outside world's part in one step: arrivals, or a reset, which "is a step of its own" (R187). -/
inductive Boundary where
  | arrive (a : Arrivals)
  | reset
  deriving DecidableEq, Repr

/-- The inputs of the step relation (R35), as plain data the steps read from the front, and the bookkeeping of those
reads (assumption 4).  Where `boundaries` is empty nothing arrives; where another list is empty the answer is the free
value of Config at `draws`. -/
structure Env where
  boundaries   : List Boundary        -- one entry is taken at each step
  faults       : List Bool            -- the fault oracle (R158): true, the access fails
  tickGaps     : List Nat             -- how far true time moves before a read of `PORT_TICK` (R112)
  adcReadings  : List Nat             -- the converter's readings (R177)
  readFails    : List Bool            -- does a `StorageRead` fail (R49)
  storeResults : List StoreResult     -- the outcome of a `StorageWrite` (R49, U6)
  time         : Nat                  -- the true time `T` of R112, in ticks, at the last read
  draws        : Nat                  -- answers drawn so far
  deriving DecidableEq, Repr

/-- The whole state: every row of R13, `fg.op` (R32), the latched cancellation signal (R162), the command port (R66), the
parameters (R8), the inputs (R35) and the history of accesses since reset, newest first. -/
structure State where
  cfg           : Params
  pbe           : Pbe
  timer         : Timer
  pwm           : Pwm
  cap           : Cap
  flt           : Flt
  wvc           : Wvc
  wd            : Wd
  boot          : Boot
  fg            : FgOp
  cancelPending : Bool
  sm            : SampleMem
  storage       : List (Nat × List Byte)
  cmd           : CmdPort
  env           : Env
  trace         : List AccessEvent
  deriving DecidableEq, Repr

/-- Where the machine stops.  Raised by TICK's sample fetch and by CAPTURE's store, only in states no run reaches. -/
inductive Fault where
  | sampleOutsideMemory   -- an access to SM at SAMPLE_MEM_BYTES or above, which R48 says "is ever made"; safe: it stops
  deriving DecidableEq, Repr

/-- Why an instruction has no meaning.  Raised by `exec`'s arms only; safe: nothing runs. -/
inductive Refusal where
  | notModelled (mnemonic : String)   -- the arm has no meaning yet
  deriving DecidableEq, Repr

/-- No inputs: nothing scripted, true time 0 (assumptions 4, 7). -/
def Env.silent : Env where
  boundaries := []
  faults := []
  tickGaps := []
  adcReadings := []
  readFails := []
  storeResults := []
  time := 0
  draws := 0

/-- The state R40 gives for a machine with parameters `p`: Idle, disarmed, nothing pending, `NEUTRAL` duty, grace not
done, foreground idle, sample memory without a value.  What R40 leaves unspecified is 0 (assumption 7); storage is
"environment-supplied" and empty here (assumption 8). -/
def State.resetOf (p : Params) : State where
  cfg := p
  pbe := { state := .idle, bufBase := 0#32, bufLen := 0#32, position := 0#32, loop := false }
  timer := { armed := false, rate := 0#32, pending := false }
  pwm := { freq := 0#32, duty := p.neutral }
  cap := { nextDeadline := 0, period := 0, index := 0#32, count := 0#32 }
  flt := { y := 0, index := 0#32 }
  wvc := { offset := 0#32 }
  wd := { sampleRate := 0#32, sampleCount := 0#32 }
  boot := { graceDone := false }
  fg := .idle
  cancelPending := false
  sm := { epoch := 0, cells := [] }
  storage := []
  cmd := { rx := [], tx := [] }
  env := .silent
  trace := []

/-- The machine right after reset (R40, R186 to R188), with the parameters of `Config.params`. -/
def State.reset : State := State.resetOf Config.params

end Sys2Proof.Machine
end

