-- ==== Sys2Proof/Machine/Flags.lean ====
section
/-! DEFINITION. VRAC has no flags an operation sets as a side effect (R90, R131); this file holds what stands in their place:
the codes and predicates of the engine state, the hardwired descriptor fields, and the bytes of responses. -/

namespace Sys2Proof.Machine

/-- The code of the engine state (R22). -/
def Engine.code : Engine → Byte
  | .idle => 0#8
  | .playing => 1#8
  | .finished => 2#8
  | .stopped => 3#8
  | .faulted => 4#8

/-- The source's `stopped` flag as R23 defines it: the state is Finished, Stopped or Faulted, the terminal states. -/
def Engine.isStopped : Engine → Bool
  | .idle => false
  | .playing => false
  | .finished => true
  | .stopped => true
  | .faulted => true

/-- `wd.bits_per_sample`, hardwired (R30). -/
def Wd.bitsPerSample (_ : Wd) : BitVec 16 := 8#16

/-- `wd.channels`, hardwired (R30). -/
def Wd.channels (_ : Wd) : BitVec 16 := 1#16

/-- `wd.audio_format`, hardwired (R30): PCM. -/
def Wd.audioFormat (_ : Wd) : BitVec 16 := 1#16

/-- The subcode byte of a FormatError (R74). -/
def FormatError.code : FormatError → Byte
  | .badRiffMarker => 1#8
  | .badWaveMarker => 2#8
  | .badFmtMarker => 3#8
  | .fmtTruncated => 4#8
  | .notPcm => 5#8
  | .badChannels => 6#8
  | .badBitDepth => 7#8
  | .dataChunkMissing => 8#8
  | .dataTruncated => 9#8

/-- The code byte of a response (R73). -/
def Response.code : Response → Byte
  | .ok => 0x00#8
  | .decoded _ _ => 0x00#8
  | .captured _ => 0x00#8
  | .status _ => 0x00#8
  | .formatError _ => 0x01#8
  | .ioError => 0x02#8
  | .hardwareFault => 0x03#8
  | .argumentError => 0x04#8
  | .busy => 0x05#8
  | .illegalCommand => 0x06#8
  | .interrupted => 0x07#8

/-- The payload of a response (R72). -/
def Response.payload : Response → List Byte
  | .decoded len sampleRate => le32 len ++ le32 sampleRate
  | .captured count => le32 count
  | .status state => [state.code]
  | .formatError e => [e.code]
  | .ok => []
  | .ioError => []
  | .hardwareFault => []
  | .argumentError => []
  | .busy => []
  | .illegalCommand => []
  | .interrupted => []

/-- A response frame: "one code byte followed by a payload" (R72). -/
def Response.bytes (r : Response) : List Byte :=
  r.code :: r.payload

end Sys2Proof.Machine
end

