-- ==== Sys2Proof/Machine/Cells.lean ====
section
/-! DEFINITION. Sparse data by key, as a list of pairs with strictly rising keys: sample memory (R33) and storage (R34). -/

namespace Sys2Proof.Machine

/-- The canonical form: keys strictly rising, so that equal maps are equal lists. -/
abbrev cellsRise {α : Type} (l : List (Nat × α)) : Prop :=
  (l.map Prod.fst).Pairwise (· < ·)

/-- The value under a key, none where nothing is listed. -/
def cellGet {α : Type} (l : List (Nat × α)) (k : Nat) : Option α :=
  match l with
  | [] => none
  | (a, v) :: t => if a = k then some v else cellGet t k

/-- Put a value under a key, keeping the keys rising. -/
def cellPut {α : Type} (l : List (Nat × α)) (k : Nat) (v : α) : List (Nat × α) :=
  match l with
  | [] => [(k, v)]
  | (a, w) :: t =>
    if k < a then (k, v) :: (a, w) :: t
    else if k = a then (k, v) :: t
    else (a, w) :: cellPut t k v

/-- Remove a key. -/
def cellDrop {α : Type} (l : List (Nat × α)) (k : Nat) : List (Nat × α) :=
  l.filter fun c => c.1 != k

/-- `SM[a]` (R47): the byte last written since reset, else the arbitrary value of U1. -/
def SampleMem.read (m : SampleMem) (a : Nat) : Byte :=
  (cellGet m.cells a).getD (Config.unwrittenByte m.epoch a)

/-- `SM[a] <- v` (R47). -/
def SampleMem.write (m : SampleMem) (a : Nat) (v : Byte) : SampleMem :=
  { m with cells := cellPut m.cells a v }

/-- Consecutive bytes written from `a` up, in order. -/
def SampleMem.writeList (m : SampleMem) (a : Nat) (vs : List Byte) : SampleMem :=
  match vs with
  | [] => m
  | v :: rest => (m.write a v).writeList (a + 1) rest

/-- `SM[a .. a + n)`, in order. -/
def SampleMem.readList (m : SampleMem) (a n : Nat) : List Byte :=
  (List.range n).map fun i => m.read (a + i)

/-- Sample memory in canonical form, inside `0 .. size - 1` (R33).  An unlisted address has no value of its own, so no
entry can equal it. -/
abbrev SampleMem.wf (m : SampleMem) (size : Nat) : Prop :=
  cellsRise m.cells ∧ ∀ c ∈ m.cells, c.1 < size

/-- Storage in canonical form, its identifiers 32 bits wide (R34). -/
abbrev storageWf (l : List (Nat × List Byte)) : Prop :=
  cellsRise l ∧ ∀ c ∈ l, c.1 < 2 ^ 32

end Sys2Proof.Machine
end

