-- ==== Sys2Proof/Machine/Clock.lean ====
section
/-! DEFINITION. CAP's four pure functions (41_capture.md R107 to R110). -/

namespace Sys2Proof.Machine

/-- Ticks in a second: `TICK_UNIT` is 1 microsecond (R8, R109). -/
def ticksPerSecond : Nat := 1000000

/-- `TickAdd(t, p) = (t + p) mod M` (R107). -/
def tickAdd (cfg : Params) (t p : Nat) : Nat :=
  (t + p) % cfg.modulus

/-- `TickDiff(a, b)`, the signed distance from `b` to `a` (R108). -/
def tickDiff (cfg : Params) (a b : Nat) : Int :=
  let d := ((a : Int) - (b : Int)) % (cfg.modulus : Int)
  if d < ((cfg.modulus / 2 : Nat) : Int) then d else d - (cfg.modulus : Int)

/-- `Period(r) = round(1_000_000 / r)` ticks, with the tie rule `ROUND_TIE` (R109). -/
def period (cfg : Params) (r : Nat) : Nat :=
  let q := ticksPerSecond / r
  let m := ticksPerSecond % r
  if 2 * m < r then q
  else if r < 2 * m then q + 1
  else match cfg.roundTie with
    | .even => if q % 2 = 0 then q else q + 1
    | .up => q + 1

/-- `Quantize(raw) = raw >> (ADC_BITS - 8)` (R110). -/
def quantize (cfg : Params) (raw : Nat) : Byte :=
  BitVec.ofNat 8 (raw / 2 ^ (cfg.adcBits - 8))

end Sys2Proof.Machine
end

