-- ==== Sys2Proof/Machine/Operands.lean ====
section
/-! DEFINITION. What operands stand for: regions of sample memory with their range and busy checks (R48, R53), the `alpha`
of SMOOTH (R71), the `loop` bit of START (R70), the duty of a sample (R139). -/

namespace Sys2Proof.Machine

/-- The region `(base, len)` fits sample memory: `base + len <= SAMPLE_MEM_BYTES`, "the sum taken in unbounded
integers" (R48). -/
def regionFits (s : State) (base len : Nat) : Bool :=
  base + len ≤ s.cfg.sampleMemBytes

/-- Two regions overlap (R53). -/
def regionsOverlap (b1 l1 b2 l2 : Nat) : Bool :=
  0 < l1 && 0 < l2 && b1 < b2 + l2 && b2 < b1 + l1

/-- The busy check: a write to the region being played (R53). -/
def regionBusy (s : State) (base len : Nat) : Bool :=
  s.pbe.state == .playing && regionsOverlap base len s.pbe.bufBase.toNat s.pbe.bufLen.toNat

/-- `alpha_q` is in the admitted range, `1 <= alpha_q <= 2^ALPHA_FRAC_BITS` (R71). -/
def alphaAdmitted (cfg : Params) (alphaQ : Word) : Bool :=
  1 ≤ alphaQ.toNat && alphaQ.toNat ≤ 2 ^ cfg.alphaFracBits

/-- `alpha = alpha_q / 2^ALPHA_FRAC_BITS`, an exact rational (R71). -/
def alphaOf (cfg : Params) (alphaQ : Word) : Rat :=
  (alphaQ.toNat : Rat) / ((2 ^ cfg.alphaFracBits : Nat) : Rat)

/-- `loop[0]` (R70, R133). -/
def loopBit (loop : Byte) : Bool :=
  loop.getLsbD 0

/-- `loop[7:1] = 0` (R134). -/
def loopReservedZero (loop : Byte) : Bool :=
  loop.extractLsb' 1 7 == 0#7

/-- `Duty(s) = s * SCALE` (R139). -/
def dutyOf (cfg : Params) (s : Byte) : Nat :=
  s.toNat * cfg.scale

end Sys2Proof.Machine
end

