-- ==== Sys2Proof/Machine/Ops.lean ====
section
/-! DEFINITION. The named operations every meaning is written with: register writes, the environment's answers, port
accesses (R11, R50, R158, R159), storage (R49), and taking a fault, VRAC's one exception entry (R138, R166). -/

namespace Sys2Proof.Machine

/-! Register writes. -/

/-- `pbe.state <- e` (R22). -/
def State.setEngine (s : State) (e : Engine) : State :=
  { s with pbe := { s.pbe with state := e } }

/-- `pbe.position <- p` (R20). -/
def State.setPosition (s : State) (p : Word) : State :=
  { s with pbe := { s.pbe with position := p } }

/-- START's writes of the Playback Cursor (R133). -/
def State.openCursor (s : State) (base len : Word) (loop : Bool) : State :=
  { s with pbe := { s.pbe with bufBase := base, bufLen := len, loop := loop, position := 0#32 } }

/-- `timer.pending <- 0`, the one change that entry into TICK makes (R165). -/
def State.ackTick (s : State) : State :=
  { s with timer := { s.timer with pending := false } }

/-- The cancellation signal is taken (R147, R162). -/
def State.ackCancel (s : State) : State :=
  { s with cancelPending := false }

/-- `fg.op <- f` (R32). -/
def State.setFg (s : State) (f : FgOp) : State :=
  { s with fg := f }

/-- `cap.* <- c` (R15, R29). -/
def State.setCap (s : State) (c : Cap) : State :=
  { s with cap := c }

/-- `flt.y <- y; flt.index <- i` (R16). -/
def State.setFlt (s : State) (y : Rat) (i : Word) : State :=
  { s with flt := { y := y, index := i } }

/-- `wvc.offset <- o` (R17). -/
def State.setOffset (s : State) (o : Nat) : State :=
  { s with wvc := { offset := BitVec.ofNat 32 o } }

/-- `wd.sample_rate <- rate; wd.sample_count <- count` (R30). -/
def State.setWd (s : State) (rate count : Word) : State :=
  { s with wd := { sampleRate := rate, sampleCount := count } }

/-- Sample memory becomes `m`. -/
def State.setSm (s : State) (m : SampleMem) : State :=
  { s with sm := m }

/-- Storage becomes `l`. -/
def State.setStorage (s : State) (l : List (Nat × List Byte)) : State :=
  { s with storage := l }

/-- The command port's unread bytes become `bs`. -/
def State.setRx (s : State) (bs : List Byte) : State :=
  { s with cmd := { s.cmd with rx := bs } }

/-- VRAC answers with one response frame (R66, R72). -/
def State.respond (s : State) (r : Response) : State :=
  { s with cmd := { s.cmd with tx := s.cmd.tx ++ [r] } }

/-- The access enters the history. -/
def State.note (s : State) (a : Access) (ok : Bool) : State :=
  { s with trace := { access := a, ok := ok } :: s.trace }

/-! The environment's answers: the front of the scripted list, or the free value where the list is empty. -/

/-- The front of a list and what is left of it. -/
def takeFront {α : Type} (xs : List α) (free : α) : α × List α :=
  match xs with
  | [] => (free, [])
  | x :: rest => (x, rest)

/-- One answer of the fault oracle: true, the access fails (R158). -/
def State.drawFault (s : State) : Bool × State :=
  let (b, rest) := takeFront s.env.faults (Config.freeFault s.env.draws)
  (b, { s with env := { s.env with faults := rest, draws := s.env.draws + 1 } })

/-- Does this `StorageRead` fail (R49)? -/
def State.drawReadFails (s : State) : Bool × State :=
  let (b, rest) := takeFront s.env.readFails (Config.freeReadFails s.env.draws)
  (b, { s with env := { s.env with readFails := rest, draws := s.env.draws + 1 } })

/-- The outcome of this `StorageWrite` (R49). -/
def State.drawStoreResult (s : State) : StoreResult × State :=
  let (r, rest) := takeFront s.env.storeResults (Config.freeStoreResult s.env.draws)
  (r, { s with env := { s.env with storeResults := rest, draws := s.env.draws + 1 } })

/-- `HwRead(PORT_TICK)`: true time moves on by some amount and is read mod `M` (R50, R112, R175). -/
def State.readTick (s : State) : Nat × State :=
  let (gap, rest) := takeFront s.env.tickGaps (Config.freeTickGap s.env.draws)
  let now := (s.env.time + gap) % s.cfg.modulus
  (now, { s with env := { s.env with tickGaps := rest, time := s.env.time + gap, draws := s.env.draws + 1 } }.note
    (.readTick now) true)

/-- `HwRead(PORT_ADC)`: one new reading in `0 .. 2^ADC_BITS - 1` (R50, R56, R177). -/
def State.readAdc (s : State) : Nat × State :=
  let (v, rest) := takeFront s.env.adcReadings (Config.freeAdc s.env.draws)
  let raw := v % 2 ^ s.cfg.adcBits
  (raw, { s with env := { s.env with adcReadings := rest, draws := s.env.draws + 1 } }.note (.readAdc raw) true)

/-! Port writes. -/

/-- The effect of a successful port write (R25, R27, R178). -/
def State.applyWrite (s : State) (w : PortWrite) : State :=
  match w with
  | .freq hz => { s with pwm := { s.pwm with freq := hz } }
  | .duty v => { s with pwm := { s.pwm with duty := v } }
  | .arm rate => { s with timer := { s.timer with armed := true, rate := rate } }
  | .disarm => { s with timer := { s.timer with armed := false } }

/-- `HwWrite(port, v)`: `ok` with its effect, or `fail` and the register unchanged, as the oracle says (R50, R158, R159). -/
def State.hwWrite (s : State) (w : PortWrite) : Bool × State :=
  match s.drawFault with
  | (true, s1) => (false, s1.note (.write w) false)
  | (false, s1) => (true, (s1.note (.write w) true).applyWrite w)

/-- The port writes of a `try`: in order, the rest abandoned at the first that fails (R11). -/
def State.attempt (s : State) (ws : List PortWrite) : Bool × State :=
  match ws with
  | [] => (true, s)
  | w :: rest =>
    match s.hwWrite w with
    | (true, s1) => s1.attempt rest
    | (false, s1) => (false, s1)

/-! Fault entry: what VRAC has in the place of taking an exception (R166).  Nothing is saved; the timer is disarmed and
the duty set to neutral, each attempted, and the state becomes Faulted.  There is no return from it (R167). -/

/-- `DefensiveShutdown()`: disarm, then neutral duty, both always attempted (R138); the two results and the state. -/
def State.defensiveShutdown (s : State) : Bool × Bool × State :=
  match s.hwWrite .disarm with
  | (r1, s1) =>
    match s1.hwWrite (.duty s.cfg.neutral) with
    | (r2, s2) => (r1, r2, s2)

/-- Fault recovery after a failed access: the shutdown, its results ignored, then Faulted (R136, R144, R166, R169). -/
def State.takeFault (s : State) : State :=
  match s.defensiveShutdown with
  | (_, _, s1) => s1.setEngine .faulted

/-- The teardown STOP and CANCEL share: the shutdown, then Stopped when both writes succeeded, else Faulted (R145, R147);
whether both succeeded, and the state. -/
def State.teardown (s : State) : Bool × State :=
  match s.defensiveShutdown with
  | (r1, r2, s1) => if r1 && r2 then (true, s1.setEngine .stopped) else (false, s1.setEngine .faulted)

/-! Storage (R34, R49). -/

/-- `StorageRead(id)`: the whole stream, or none where the access fails, the stream is missing, or it has `2^32` bytes or
more (R49, R97, U7; assumption 9). -/
def State.storageRead (s : State) (id : Word) : Option (List Byte) × State :=
  match s.drawReadFails with
  | (failed, s1) =>
    (if failed then none
      else (cellGet s1.storage id.toNat).filter fun stream => stream.length < 2 ^ 32, s1)

/-- What storage holds after a `StorageWrite` of `stream` under `id`: the stream, or after a failure nothing, the old
stream or a prefix of the new one (R49, U6). -/
def storageAfter (l : List (Nat × List Byte)) (id : Word) (stream : List Byte) (r : StoreResult) :
    List (Nat × List Byte) :=
  match r with
  | .stored => cellPut l id.toNat stream
  | .failedAbsent => cellDrop l id.toNat
  | .failedOld => l
  | .failedPrefix n => cellPut l id.toNat (stream.take n)

/-- `StorageWrite(id, stream)`: the stream replaced whole, or a failure (R49); whether it succeeded, and the state. -/
def State.storageWrite (s : State) (id : Word) (stream : List Byte) : Bool × State :=
  match s.drawStoreResult with
  | (r, s1) => (r == .stored, s1.setStorage (storageAfter s1.storage id stream r))

/-! TICK's sample fetch (R140). -/

/-- How a sample fetch ends. -/
inductive Fetched where
  | failed (s : State)               -- no such sample, or the oracle failed the access
  | sample (s : State) (b : Byte)
  | outside                          -- the address is no address of sample memory

/-- `SampleFetch(i)`: fails without asking the oracle where there is no sample `i`, fails where the oracle says so, else
the byte `SM[pbe.buf_base + i]` (R140). -/
def State.sampleFetch (s : State) (i : Word) : Fetched :=
  if s.pbe.bufLen ≤ i then .failed (s.note (.fetch i) false)
  else if s.cfg.sampleMemBytes ≤ s.pbe.bufBase.toNat + i.toNat then .outside
  else match s.drawFault with
    | (true, s1) => .failed (s1.note (.fetch i) false)
    | (false, s1) => .sample (s1.note (.fetch i) true) (s1.sm.read (s1.pbe.bufBase.toNat + i.toNat))

end Sys2Proof.Machine
end

