-- ==== Sys2Proof/Machine/Playback.lean ====
section
/-! DEFINITION. PBE: START, STOP, STATUS and the events TICK and CANCEL (43_playback.md).  "Flags written" are the fields of
`State.pbe` each meaning assigns; State has no flag register and no operation a side-effect flag (R131). -/

namespace Sys2Proof.Machine

/-- What a check answers: the response the operation is refused with, or none to go on. -/
abbrev Check := Option Response

/-- The checks of START in the order of R134. -/
def startCheck (base len sampleRate : Word) (loop : Byte) (s : State) : Check :=
  if s.pbe.state = .playing then some .busy
  else if !loopReservedZero loop then some .argumentError
  else if sampleRate = 0#32 ∨ s.cfg.timerMaxHz < sampleRate.toNat then some .argumentError
  else if !regionFits s base.toNat len.toNat then some .argumentError
  else none

/-- START past its checks and its hold, one indivisible micro-step (R133, R135, R136). -/
def startSession (base len sampleRate : Word) (loop : Byte) (s : State) : State :=
  match (s.openCursor base len (loopBit loop)).attempt
      [.freq s.cfg.carrierHz, .duty s.cfg.neutral, .arm sampleRate] with
  | (true, s1) => (s1.setEngine .playing).respond .ok
  | (false, s1) => s1.takeFault.respond .hardwareFault

/-- `START base, len, sample_rate, loop` (R133): refused by a check, held while the grace period runs (R137), or begun. -/
def execStart (base len sampleRate : Word) (loop : Byte) (s : State) : Host.Outcome State Fault Refusal :=
  .next (match startCheck base len sampleRate loop s with
    | some r => s.respond r
    | none =>
      if s.boot.graceDone then startSession base len sampleRate loop s
      else s.setFg (.startHeld base len sampleRate loop))

/-- A held START at one micro-step boundary: it waits, or the grace period is over and it begins (R137). -/
def startResume (base len sampleRate : Word) (loop : Byte) (s : State) : State :=
  if s.boot.graceDone then startSession base len sampleRate loop (s.setFg .idle) else s

/-- `STOP` (R145). -/
def execStop (s : State) : Host.Outcome State Fault Refusal :=
  .next (if s.pbe.state = .playing then
      match s.teardown with
      | (true, s1) => s1.respond .ok
      | (false, s1) => s1.respond .hardwareFault
    else s.respond .ok)

/-- `STATUS` (R146). -/
def execStatus (s : State) : Host.Outcome State Fault Refusal :=
  .next (s.respond (.status s.pbe.state))

/-- TICK at the end of a non-looping buffer: disarm, neutral, Finished (R143); a failed write takes the fault (R144). -/
def tickFinish (s : State) : State :=
  match s.attempt [.disarm, .duty s.cfg.neutral] with
  | (true, s1) => s1.setEngine .finished
  | (false, s1) => s1.takeFault

/-- TICK's write of sample `b` and advance of the cursor (R141); a failed write takes the fault, the cursor not advanced
(R144). -/
def tickSample (b : Byte) (s : State) : State :=
  match s.hwWrite (.duty (dutyOf s.cfg b)) with
  | (true, s1) => s1.setPosition (s1.pbe.position + 1#32)
  | (false, s1) => s1.takeFault

/-- TICK's fetch and write of the sample at the cursor (R141). -/
def tickAdvance (s : State) : Host.Outcome State Fault Refusal :=
  match s.sampleFetch s.pbe.position with
  | .outside => .fault .sampleOutsideMemory
  | .failed s1 => .next s1.takeFault
  | .sample s1 b => .next (tickSample b s1)

/-- TICK while Playing (R141, R143). -/
def tickPlaying (s : State) : Host.Outcome State Fault Refusal :=
  if s.pbe.position = s.pbe.bufLen then
    if s.pbe.loop then tickAdvance (s.setPosition 0#32) else .next (tickFinish s)
  else tickAdvance s

/-- `TICK` (R141): the request is taken, and outside Playing nothing else happens (R142). -/
def execTick (s : State) : Host.Outcome State Fault Refusal :=
  if s.pbe.state = .playing then tickPlaying s.ackTick else .next s.ackTick

/-- `CANCEL` (R147): the signal is taken, an operation in progress is abandoned, STOP's teardown runs when Playing, and the
one response is Interrupted. -/
def execCancel (s : State) : Host.Outcome State Fault Refusal :=
  let s1 := s.ackCancel.setFg .idle
  .next (if s1.pbe.state = .playing then
      match s1.teardown with
      | (_, s2) => s2.respond .interrupted
    else s1.respond .interrupted)

end Sys2Proof.Machine
end

