-- ==== Sys2Proof/Machine/Capture.lean ====
section
/-! DEFINITION. CAP: CAPTURE as its micro-steps (41_capture.md R111, 20_memory.md R58). -/

namespace Sys2Proof.Machine

/-- `sample_rate * duration`, in unbounded integers (R113). -/
def captureCount (sampleRate duration : Word) : Nat :=
  sampleRate.toNat * duration.toNat

/-- The checks of CAPTURE in the order of R113. -/
def captureCheck (dst sampleRate duration : Word) (s : State) : Check :=
  if sampleRate = 0#32 then some .argumentError
  else if period s.cfg sampleRate.toNat = 0 then some .argumentError
  else if s.cfg.modulus / 2 ≤ period s.cfg sampleRate.toNat then some .argumentError
  else if !regionFits s dst.toNat (captureCount sampleRate duration) then some .argumentError
  else if regionBusy s dst.toNat (captureCount sampleRate duration) then some .busy
  else none

/-- What `cap.count` takes (R15, R111): `sample_rate * duration`, or a free value for the one product the checks admit and
32 bits cannot hold, `2^32` (assumption 6). -/
def countRegister (draws : Nat) (sampleRate duration : Word) : Word :=
  if captureCount sampleRate duration < 2 ^ 32 then BitVec.ofNat 32 (captureCount sampleRate duration)
  else Config.freeCount draws

/-- CAPTURE's set-up past the checks: count, period, the initial deadline read from `PORT_TICK`, index 0 (R111). -/
def captureSetup (dst sampleRate duration : Word) (s : State) : State :=
  match s.readTick with
  | (now, s1) =>
    let s2 := s1.setCap
      { nextDeadline := now, period := period s.cfg sampleRate.toNat, index := 0#32,
        count := countRegister s.env.draws sampleRate duration }
    if s2.cap.count = 0#32 then s2.respond (.captured s2.cap.count) else s2.setFg (.captureWait dst)

/-- `CAPTURE dst, sample_rate, duration`, its micro-step 0 (R111, R113); the later ones are `capturePoll` and
`captureTake`. -/
def execCapture (dst sampleRate duration : Word) (s : State) : Host.Outcome State Fault Refusal :=
  .next (match captureCheck dst sampleRate duration s with
    | some r => s.respond r
    | none => captureSetup dst sampleRate duration s)

/-- One poll of the busy-wait: on `TickDiff(now, cap.next_deadline) >= 0` the next micro-step takes the sample (R111). -/
def capturePoll (dst : Word) (s : State) : State :=
  match s.readTick with
  | (now, s1) => if 0 ≤ tickDiff s1.cfg now s1.cap.nextDeadline then s1.setFg (.captureTake dst) else s1

/-- CAPTURE goes on with the next slot, or responds when all are filled (R111). -/
def captureNext (dst : Word) (s : State) : State :=
  if s.cap.index < s.cap.count then s.setFg (.captureWait dst)
  else (s.setFg .idle).respond (.captured s.cap.count)

/-- One sample, one micro-step: the deadline advanced, then the converter read, the byte stored, the index advanced
(R111). -/
def captureTake (dst : Word) (s : State) : Host.Outcome State Fault Refusal :=
  if s.cfg.sampleMemBytes ≤ dst.toNat + s.cap.index.toNat then .fault .sampleOutsideMemory
  else
    match (s.setCap { s.cap with nextDeadline := tickAdd s.cfg s.cap.nextDeadline s.cap.period }).readAdc with
    | (raw, s1) =>
      let s2 := s1.setSm (s1.sm.write (dst.toNat + s1.cap.index.toNat) (quantize s1.cfg raw))
      .next (captureNext dst (s2.setCap { s2.cap with index := s2.cap.index + 1#32 }))

end Sys2Proof.Machine
end

