-- ==== Sys2Proof/Machine/Container.lean ====
section
/-! DEFINITION. The WAV container: the canonical layout ENCODE writes (30_encoding.md R78) and the reader of what DECODE
accepts (R82, 40_wav_codec.md R91 to R95). -/

namespace Sys2Proof.Machine

/-- `RIFF` (R79; the byte values are general knowledge, assumption 10). -/
def tagRiff : List Byte := [0x52#8, 0x49#8, 0x46#8, 0x46#8]

/-- `WAVE` (R79). -/
def tagWave : List Byte := [0x57#8, 0x41#8, 0x56#8, 0x45#8]

/-- `fmt ` with its space (R79). -/
def tagFmt : List Byte := [0x66#8, 0x6D#8, 0x74#8, 0x20#8]

/-- `data` (R79). -/
def tagData : List Byte := [0x64#8, 0x61#8, 0x74#8, 0x61#8]

/-- The canonical container of `samples` at `rate` (R78, R98): `36 + N`, format size 16, PCM, one channel,
`byte_rate = R`, `block_align = 1`, 8 bits, no pad byte (R85). -/
def wavContainer (rate : Word) (samples : List Byte) : List Byte :=
  tagRiff ++ le32 (BitVec.ofNat 32 (36 + samples.length)) ++ tagWave ++
  tagFmt ++ le32 16#32 ++
  le16 1#16 ++ le16 1#16 ++ le32 rate ++ le32 rate ++ le16 1#16 ++ le16 8#16 ++
  tagData ++ le32 (BitVec.ofNat 32 samples.length) ++ samples

/-- `Take(k)` at an offset: `k` bytes, or none where the stream is short (R91). -/
def takeAt (stream : List Byte) (off k : Nat) : Option (List Byte) :=
  if off + k ≤ stream.length then some ((stream.drop off).take k) else none

/-- What reading a container gives: an error and how far the stream was consumed, or the sample rate, the number of
samples and the offset of the first. -/
inductive WavRead where
  | bad (off : Nat) (e : FormatError)
  | good (off : Nat) (rate : Word) (count : Word)
  deriving DecidableEq, Repr

/-- The chunk scan of R94 from an offset up to the samples of the first `data` chunk (R95).  `fuel` counts chunks; every
chunk takes 8 bytes, so the stream's length is enough. -/
def scanChunks (stream : List Byte) (rate : Word) (fuel off : Nat) : WavRead :=
  match fuel with
  | 0 => .bad off .dataChunkMissing
  | k + 1 =>
    match takeAt stream off 4 with
    | none => .bad off .dataChunkMissing
    | some tag =>
      match takeAt stream (off + 4) 4 with
      | none => .bad (off + 4) .dataChunkMissing
      | some b =>
        let size := field32 b 0
        if tag = tagData then
          if stream.length < off + 8 + size.toNat then .bad (off + 8) .dataTruncated
          else .good (off + 8) rate size
        else if stream.length < off + 8 + size.toNat then .bad (off + 8) .dataChunkMissing
        else scanChunks stream rate k (off + 8 + size.toNat)

/-- The checks on the format record `p`, in the order of R91; then the chunk scan from `off`. -/
def readFormat (stream p : List Byte) (off : Nat) : WavRead :=
  if field16 p 0 ≠ 1#16 then .bad off .notPcm
  else if field16 p 2 ≠ 1#16 then .bad off .badChannels
  else if field16 p 14 ≠ 8#16 then .bad off .badBitDepth
  else scanChunks stream (field32 p 4) (stream.length + 1) off

/-- The format sub-chunk's size and payload, from its size field at offset 16 (R91, R93). -/
def readFmtChunk (stream : List Byte) : WavRead :=
  match takeAt stream 16 4 with
  | none => .bad 16 .fmtTruncated
  | some b =>
    let size := (field32 b 0).toNat
    if size < 16 then .bad 20 .fmtTruncated
    else match takeAt stream 20 size with
      | none => .bad 20 .fmtTruncated
      | some p => readFormat stream p (20 + size)

/-- The container read from its start: the `RIFF` marker, the overall size (not validated), the `WAVE` and `fmt ` markers,
then the format sub-chunk (R91, R92). -/
def readWav (stream : List Byte) : WavRead :=
  match takeAt stream 0 4 with
  | none => .bad 0 .badRiffMarker
  | some t0 =>
    if t0 ≠ tagRiff then .bad 4 .badRiffMarker
    else match takeAt stream 4 4 with
      | none => .bad 4 .fmtTruncated
      | some _ =>
        match takeAt stream 8 4 with
        | none => .bad 8 .badWaveMarker
        | some t1 =>
          if t1 ≠ tagWave then .bad 12 .badWaveMarker
          else match takeAt stream 12 4 with
            | none => .bad 12 .badFmtMarker
            | some t2 => if t2 ≠ tagFmt then .bad 16 .badFmtMarker else readFmtChunk stream

end Sys2Proof.Machine
end

