-- ==== Sys2Proof/Machine/Codec.lean ====
section
/-! DEFINITION. WVC: DECODE and ENCODE (40_wav_codec.md). -/

namespace Sys2Proof.Machine

/-- DECODE's two refusals, made once the header gives the number of samples (R91, R97). -/
def decodeCheck (dst : Word) (count : Nat) (s : State) : Check :=
  if !regionFits s dst.toNat count then some .argumentError
  else if regionBusy s dst.toNat count then some .busy
  else none

/-- DECODE's copy of `count` samples from `off` and its results (R91). -/
def decodeCopy (stream : List Byte) (off : Nat) (rate count dst : Word) (s : State) : State :=
  let s1 := s.setSm (s.sm.writeList dst.toNat ((stream.drop off).take count.toNat))
  ((s1.setOffset (off + count.toNat)).setWd rate count).respond (.decoded count rate)

/-- DECODE of the stream it has read (R91). -/
def decodeStream (stream : List Byte) (dst : Word) (s : State) : State :=
  match readWav stream with
  | .bad off e => (s.setOffset off).respond (.formatError e)
  | .good off rate count =>
    match decodeCheck dst count.toNat s with
    | some r => (s.setOffset off).respond r
    | none => decodeCopy stream off rate count dst s

/-- `DECODE path_id, dst` (R91). -/
def execDecode (pathId dst : Word) (s : State) : Host.Outcome State Fault Refusal :=
  .next (match s.storageRead pathId with
    | (none, s1) => s1.respond .ioError
    | (some stream, s1) => decodeStream stream dst s1)

/-- The checks of ENCODE (R98, R99). -/
def encodeCheck (base len : Word) (s : State) : Check :=
  if !regionFits s base.toNat len.toNat then some .argumentError
  else if 2 ^ 32 - 37 < len.toNat then some .argumentError
  else none

/-- ENCODE past its checks: the whole stream built, then written in one access (R98, R100); a failure leaves `wd.*`
(R101). -/
def encodeStore (pathId base len sampleRate : Word) (s : State) : State :=
  match s.storageWrite pathId (wavContainer sampleRate (s.sm.readList base.toNat len.toNat)) with
  | (true, s1) => (s1.setWd sampleRate len).respond .ok
  | (false, s1) => s1.respond .ioError

/-- `ENCODE path_id, base, len, sample_rate` (R98). -/
def execEncode (pathId base len sampleRate : Word) (s : State) : Host.Outcome State Fault Refusal :=
  .next (match encodeCheck base len s with
    | some r => s.respond r
    | none => encodeStore pathId base len sampleRate s)

end Sys2Proof.Machine
end

