-- ==== Sys2Proof/Machine/Filter.lean ====
section
/-! DEFINITION. FLT: SMOOTH (42_filter.md). -/

namespace Sys2Proof.Machine

/-- The checks of SMOOTH in the order of R123. -/
def smoothCheck (base len alphaQ : Word) (s : State) : Check :=
  if !alphaAdmitted s.cfg alphaQ then some .argumentError
  else if !regionFits s base.toNat len.toNat then some .argumentError
  else if regionBusy s base.toNat len.toNat then some .busy
  else none

/-- One step of the recurrence, `y * (1 - alpha) + x * alpha`, exact (R122, R124). -/
def smoothStep (alpha y : Rat) (x : Byte) : Rat :=
  y * (1 - alpha) + (x.toNat : Rat) * alpha

/-- The byte stored for `y`: `floor(y) & 0xFF` (R122, R126, C1). -/
def smoothByte (y : Rat) : Byte :=
  BitVec.ofInt 8 y.floor

/-- The loop of R122 over the `n` samples from address `a` up: each read, the accumulator moved on unrounded (R125), and
its floor stored. -/
def smoothLoop (alpha : Rat) (n a : Nat) (y : Rat) (m : SampleMem) : Rat × SampleMem :=
  match n with
  | 0 => (y, m)
  | k + 1 =>
    let y1 := smoothStep alpha y (m.read a)
    smoothLoop alpha k (a + 1) y1 (m.write a (smoothByte y1))

/-- SMOOTH on a buffer that is not empty: seeded with the first sample, which is not written (R122). -/
def smoothBuffer (base len : Word) (alpha : Rat) (s : State) : State :=
  match smoothLoop alpha (len.toNat - 1) (base.toNat + 1) ((s.sm.read base.toNat).toNat : Rat) s.sm with
  | (y, m) => (s.setFlt y len).setSm m

/-- `SMOOTH base, len, alpha` (R122): "No-op on an empty buffer". -/
def execSmooth (base len alphaQ : Word) (s : State) : Host.Outcome State Fault Refusal :=
  .next (match smoothCheck base len alphaQ s with
    | some r => s.respond r
    | none =>
      if len = 0#32 then s.respond .ok
      else (smoothBuffer base len (alphaOf s.cfg alphaQ) s).respond .ok)

end Sys2Proof.Machine
end

