-- ==== Sys2Proof/Machine/Dispatch.lean ====
section
/-! DEFINITION. Which meaning each instruction has. -/

namespace Sys2Proof.Machine

def exec (i : Instr) (s : State) : Host.Outcome State Fault Refusal :=
  match i with
  | .start base len sampleRate loop => Sys2Proof.Machine.execStart base len sampleRate loop s
  | .stop => Sys2Proof.Machine.execStop s
  | .status => Sys2Proof.Machine.execStatus s
  | .capture dst sampleRate duration => Sys2Proof.Machine.execCapture dst sampleRate duration s
  | .smooth base len alphaQ => Sys2Proof.Machine.execSmooth base len alphaQ s
  | .decode pathId dst => Sys2Proof.Machine.execDecode pathId dst s
  | .encode pathId base len sampleRate => Sys2Proof.Machine.execEncode pathId base len sampleRate s
  | .tick => Sys2Proof.Machine.execTick s
  | .cancel => Sys2Proof.Machine.execCancel s

end Sys2Proof.Machine
end

