-- ==== Sys2Proof/Machine/Schedule.lean ====
section
/-! DEFINITION. One step of VRAC: what arrives at a micro-step boundary, what is due there, and the command port
(20_memory.md R58, 60_exceptions.md R160 to R163, 70_reset_and_hazards.md R186 to R189). -/

namespace Sys2Proof.Machine

/-- Reset of a running machine (R187): every piece of state takes its reset value, an operation in progress is abandoned
without a response, "Storage is not touched", the tick counter and the other inputs run on.  Unread command bytes are
dropped (assumption 11). -/
def State.applyReset (s : State) : State :=
  { State.resetOf s.cfg with
    storage := s.storage
    env := s.env
    sm := { epoch := s.sm.epoch + 1, cells := [] }
    cmd := { rx := [], tx := s.cmd.tx } }

/-- The environment's writes at a boundary: a period elapses only while the timer is armed and merges with a pending one
(R26, R161); a second CANCEL merges with the first (R162); the grace period ends once (R189); bytes queue.  What falls
`during` the step comes after it (`State.holdRequest`). -/
def State.absorb (s : State) (a : Arrivals) : State :=
  { s with
    timer := { s.timer with pending := s.timer.pending || (a.period && s.timer.armed) }
    cancelPending := s.cancelPending || a.cancel
    boot := { graceDone := s.boot.graceDone || a.grace }
    cmd := { s.cmd with rx := s.cmd.rx ++ a.bytes } }

/-- The idle foreground at the command port: wait for a whole frame, answer a reserved byte with IllegalCommand
(consuming that byte alone), or take the frame and run it (R66, R76). -/
def serveCommand (s : State) : Host.Outcome State Fault Refusal :=
  match decodeCommand s.cmd.rx with
  | .incomplete => .next s
  | .reserved _ => .next ((s.setRx (s.cmd.rx.drop 1)).respond .illegalCommand)
  | .instr i rest => exec i (s.setRx rest)

/-- The next micro-step of the foreground (R58). -/
def foregroundStep (s : State) : Host.Outcome State Fault Refusal :=
  match s.fg with
  | .idle => serveCommand s
  | .startHeld base len sampleRate loop => .next (startResume base len sampleRate loop s)
  | .captureWait dst => .next (capturePoll dst s)
  | .captureTake dst => captureTake dst s

/-- What is due at a boundary: "a pending TICK first, then a pending CANCEL, then the next foreground micro-step" (R163). -/
def boundaryStep (s : State) : Host.Outcome State Fault Refusal :=
  if s.timer.pending then exec .tick s
  else if s.cancelPending then exec .cancel s
  else foregroundStep s

/-- A request that became due while a micro-step or another TICK ran "is held in `timer.pending` and delivered
afterwards" (R161, R169); a disarm does not clear it (R26). -/
def State.holdRequest (s : State) (due : Bool) : State :=
  { s with timer := { s.timer with pending := s.timer.pending || due } }

/-- What is due, and then the request of a period that elapsed while it ran.  The timer was armed at some moment of it
where it was armed before or is armed after (R26, R160; assumption 19), so a request can be pending after a disarm (R198). -/
def boundaryStepDuring (during : Bool) (s : State) : Host.Outcome State Fault Refusal :=
  match boundaryStep s with
  | .next t => .next (t.holdRequest (during && (s.timer.armed || t.timer.armed)))
  | .fault f => .fault f
  | .refused r => .refused r

/-- One step: the outside world's part, if any is left, then what is due. -/
def stepOnce (s : State) : Host.Outcome State Fault Refusal :=
  match s.env.boundaries with
  | [] => boundaryStep s
  | .arrive a :: rest => boundaryStepDuring a.during ({ s with env := { s.env with boundaries := rest } }.absorb a)
  | .reset :: rest => .next { s with env := { s.env with boundaries := rest } }.applyReset

/-- A boundary at which nothing arrives. -/
def quietArrivals : Arrivals := { period := false, cancel := false, grace := false, bytes := [], during := false }

/-- Nothing arrives at the next boundary; later ones are as they were. -/
def quietNext (bs : List Boundary) : List Boundary :=
  match bs with
  | [] => []
  | b :: rest => .arrive quietArrivals :: b :: rest

/-- The bytes of a table word that its frame takes; for a reserved first byte, that byte. -/
def frameBytes (nbits w : Nat) : List Byte :=
  match decodeTableWord nbits w with
  | none => (tableBytes nbits w).take 1
  | some i => (tableBytes nbits w).take (frameLength i.opcode)

/-- A table word placed where the next step takes its instruction: a command at the command port of an idle foreground
with nothing else due; an event as the pending request it stands for (assumption 12). -/
def State.placeWord (s : State) (nbits w : Nat) : State :=
  let quiet := { s with env := { s.env with boundaries := quietNext s.env.boundaries } }
  match decodeTableWord nbits w with
  | some .tick => { quiet with timer := { s.timer with pending := true } }
  | some .cancel => { quiet with timer := { s.timer with pending := false }, cancelPending := true }
  | _ =>
    { quiet with
      timer := { s.timer with pending := false }
      cancelPending := false
      fg := .idle
      cmd := { s.cmd with rx := frameBytes nbits w } }

end Sys2Proof.Machine
end

