-- ==== Sys2Proof/Machine/Step.lean ====
section
/-! DEFINITION. The step of the machine, and where it takes its next instruction. -/

namespace Sys2Proof.Machine

/-- One micro-step, TICK, CANCEL or reset (R58). -/
def step (s : State) : Host.Outcome State Fault Refusal :=
  stepOnce s

/-- `s` with a table word placed so that the next step runs exactly it. -/
def State.withFetchWord (s : State) (nbits w : Nat) : State :=
  s.placeWord nbits w

end Sys2Proof.Machine
end

