-- ==== Sys2Proof/Safety.lean ====
section
/-! DEFINITION. What counts as a safe state and a safe run of VRAC, and the words claims use: the machine's invariant, the
neutral-output invariant of R38 and R148, the oracle's coming answers, runs of TICKs, and the filter's exact average. -/

namespace Sys2Proof.Machine

/-! The fault oracle ahead. -/

/-- The next `n` answers of the fault oracle, scripted or free (R158); true is a failure. -/
def State.faultsAhead (s : State) : Nat → List Bool
  | 0 => []
  | n + 1 => s.drawFault.1 :: s.drawFault.2.faultsAhead n

/-- The next `n` accesses all succeed: "the oracle answers `ok` every time" (R158). -/
abbrev State.nextOk (s : State) (n : Nat) : Prop :=
  s.faultsAhead n = List.replicate n false

/-- The state after `n` more answers of the oracle, nothing else changed; statements use its inputs. -/
def State.drawn (s : State) : Nat → State
  | 0 => s
  | n + 1 => s.drawFault.2.drawn n

/-- A successful port write in the history. -/
abbrev okWrite (w : PortWrite) : AccessEvent := { access := .write w, ok := true }

/-- A failed port write in the history. -/
abbrev failedWrite (w : PortWrite) : AccessEvent := { access := .write w, ok := false }

/-- Nothing is due at the boundary but the foreground's next micro-step (R163), and nothing arrives. -/
abbrev State.quiet (s : State) : Prop :=
  s.env.boundaries = [] ∧ s.timer.pending = false ∧ s.cancelPending = false

/-! What an operation leaves alone. -/

/-- The registers of CAP, FLT, WVC and the boot register, the parameters, sample memory and storage are unchanged. -/
abbrev keepsData (s t : State) : Prop :=
  t.cfg = s.cfg ∧ t.cap = s.cap ∧ t.flt = s.flt ∧ t.wvc = s.wvc ∧ t.wd = s.wd ∧ t.boot = s.boot ∧ t.sm = s.sm ∧
    t.storage = s.storage

/-- PBE, the timer and the PWM channel are unchanged, and no access was made. -/
abbrev keepsPlayback (s t : State) : Prop :=
  t.pbe = s.pbe ∧ t.timer = s.timer ∧ t.pwm = s.pwm ∧ t.trace = s.trace

/-- What a defensive shutdown leaves, whatever it started from: both writes attempted, disarm first; each register as its
write succeeded or failed, `armed` and `duty` being the values before it (R138, R159). -/
def shutdownLeft (armed : Bool) (duty : Nat) (t : State) : Prop :=
  ∃ r1 r2 before,
    t.trace = { access := .write (.duty t.cfg.neutral), ok := r2 } :: { access := .write .disarm, ok := r1 } :: before ∧
    t.timer.armed = (!r1 && armed) ∧ t.pwm.duty = (if r2 then t.cfg.neutral else duty)

/-! The machine's invariant. -/

/-- The duty register holds a legal value: `NEUTRAL` or a sample times `SCALE` (R27). -/
def dutyLegal (s : State) : Prop :=
  s.pwm.duty = s.cfg.neutral ∨ ∃ b : Byte, s.pwm.duty = dutyOf s.cfg b

/-- While Playing the cursor is inside its buffer and the buffer inside sample memory (R38 (c), R148 (e)). -/
def cursorInside (s : State) : Prop :=
  s.pbe.state = .playing →
    s.pbe.position.toNat ≤ s.pbe.bufLen.toNat ∧
    s.pbe.bufBase.toNat + s.pbe.bufLen.toNat ≤ s.cfg.sampleMemBytes

/-- CAP's clock registers fit `TICK_BITS` bits (R29). -/
def clockFits (s : State) : Prop :=
  s.cap.nextDeadline < s.cfg.modulus ∧ s.cap.period < s.cfg.modulus

/-- A CAPTURE in progress has slots left, inside sample memory and clear of a playing buffer, and a period that can be
ordered (R15, R48, R53, R113). -/
def captureInside (s : State) (dst : Word) : Prop :=
  s.cap.index < s.cap.count ∧ dst.toNat + s.cap.count.toNat ≤ s.cfg.sampleMemBytes ∧
  0 < s.cap.period ∧ s.cap.period < s.cfg.modulus / 2 ∧ regionBusy s dst.toNat s.cap.count.toNat = false

/-- A held START has passed its checks (R134, R137). -/
def heldStartChecked (s : State) (base len sampleRate : Word) (loop : Byte) : Prop :=
  startCheck base len sampleRate loop s = none

/-- The foreground's operation in progress is as its checks left it (R32). -/
def foregroundInside (s : State) : Prop :=
  match s.fg with
  | .idle => True
  | .startHeld base len sampleRate loop => heldStartChecked s base len sampleRate loop
  | .captureWait dst => captureInside s dst
  | .captureTake dst => captureInside s dst

/-- The invariant of the machine: what every reachable state satisfies. -/
structure Inv (s : State) : Prop where
  params     : s.cfg.wf
  memory     : s.sm.wf s.cfg.sampleMemBytes
  storage    : storageWf s.storage
  duty       : dutyLegal s
  clock      : clockFits s
  cursor     : cursorInside s
  foreground : foregroundInside s

/-! The neutral-output invariant. -/

/-- No port write has failed since reset (the premise of R38 and R148 (a)). -/
def noWriteFailed (s : State) : Prop :=
  ∀ e ∈ s.trace, ∀ w, e.access = .write w → e.ok = true

/-- "the PWM output is never left at an active driving duty cycle when the engine is not in the Playing state", and the
timer runs exactly while Playing, as long as no port write has failed since reset (R38 (a) (b), R148 (a)). -/
def NeutralInv (s : State) : Prop :=
  noWriteFailed s →
    (s.pbe.state = .playing → s.timer.armed = true) ∧
    (s.pbe.state ≠ .playing → s.pwm.duty = s.cfg.neutral ∧ s.timer.armed = false)

/-! Runs of TICKs, and what a TICK puts out. -/

/-- `n` TICKs one after another, stopping at a fault (R149). -/
def tickRun : Nat → State → Host.Outcome State Fault Refusal
  | 0, s => .next s
  | n + 1, s =>
    match exec .tick s with
    | .next t => tickRun n t
    | .fault f => .fault f
    | .refused r => .refused r

/-- `n` steps one after another, stopping at a fault. -/
def stepRun : Nat → State → Host.Outcome State Fault Refusal
  | 0, s => .next s
  | n + 1, s =>
    match step s with
    | .next t => stepRun n t
    | .fault f => .fault f
    | .refused r => .refused r

/-- Sample `i` of the playing buffer, `SM[pbe.buf_base + i]` (R47). -/
def playingSample (s : State) (i : Nat) : Byte :=
  s.sm.read (s.pbe.bufBase.toNat + i)

/-- The index the next TICK writes: the cursor, or 0 where the cursor is at the end (R20). -/
def nextIndex (s : State) : Word :=
  if s.pbe.position = s.pbe.bufLen then 0#32 else s.pbe.position

/-! The filter's exact average. -/

/-- `y` after `n` steps of R122's recurrence on the samples `x 0, x 1, …`: `y₀ = x 0`,
`y_(n+1) = y_n * (1 - alpha) + x (n+1) * alpha`. -/
def runningAverage (alpha : Rat) (x : Nat → Byte) : Nat → Rat
  | 0 => ((x 0).toNat : Rat)
  | n + 1 => smoothStep alpha (runningAverage alpha x n) (x (n + 1))

/-! The accepted containers of R82. -/

/-- A chunk as it stands in a stream: tag, size, payload (R81). -/
def chunkBytes (tag payload : List Byte) : List Byte :=
  tag ++ le32 (BitVec.ofNat 32 payload.length) ++ payload

/-- The format record of R80 with the fields DECODE ignores, and `extra` bytes after it (R82, R93). -/
def formatPayload (format channels : BitVec 16) (rate byteRate : Word) (align bits : BitVec 16) (extra : List Byte) :
    List Byte :=
  le16 format ++ le16 channels ++ le32 rate ++ le32 byteRate ++ le16 align ++ le16 bits ++ extra

/-- A stream of the grammar of R82: the overall size `z` unchecked, the format sub-chunk, skipped chunks, then what
follows. -/
def streamOf (z : Word) (fmt : List Byte) (skipped : List (List Byte × List Byte)) (rest : List Byte) : List Byte :=
  tagRiff ++ le32 z ++ tagWave ++ chunkBytes tagFmt fmt ++ (skipped.map fun c => chunkBytes c.1 c.2).flatten ++ rest

/-- Chunks the scan skips: tags of four bytes other than `data`, sizes that 32 bits hold (R82). -/
def skippable (skipped : List (List Byte × List Byte)) : Prop :=
  ∀ c ∈ skipped, c.1.length = 4 ∧ c.1 ≠ tagData ∧ c.2.length < 2 ^ 32

end Sys2Proof.Machine
end

