-- ==== Sys2Proof/Certificates/Slice0/Obligations.lean ====
section
/-! DEFINITION. The statements for the provers, from the numbered rules of spec/. -/

open Sys2Proof Sys2Proof.Machine

/-! Encoding. -/

/-- The decoder gives back every encoded instruction, with every operand at every value, and the bytes after it
(30_encoding.md sections 1, 2, 4). The byte codes are the spec's decisions D1 and D2. -/
def Obligations.DecodeOfEncode : Prop :=
  ∀ (i : Instr) (rest : List Byte), decode (encode i ++ rest) = .instr i rest

/-- No two byte sequences are one instruction: what decodes is what encodes to it (30_encoding.md sections 1, 2). The
byte codes are the spec's decisions D1 and D2. -/
def Obligations.EncodeOfDecode : Prop :=
  ∀ (bs : List Byte) (i : Instr) (rest : List Byte), decode bs = .instr i rest → bs = encode i ++ rest

/-- At the command port the seven commands decode to themselves and the event codes are reserved (R75, R76). The event
codes are the spec's decision D2. -/
def Obligations.CommandPortTakesCommandsOnly : Prop :=
  ∀ (i : Instr) (rest : List Byte),
    decodeCommand (encode i ++ rest) = if i.isCommand then .instr i rest else .reserved (opcodeByte i.opcode)

/-- The reserved first bytes of the command port are exactly those that are none of the seven opcodes of R68, and only
the opcode byte matters (R68, R76). The opcode map is the spec's decision D1. -/
def Obligations.ReservedFirstBytes : Prop :=
  ∀ (op : Byte) (rest : List Byte),
    decodeCommand (op :: rest) = .reserved op ↔
      op ∉ [0x10#8, 0x11#8, 0x12#8, 0x20#8, 0x30#8, 0x40#8, 0x41#8]

/-- Frames written out in the spec decode to the operations they stand for (95_test_vectors.md P1, P2, P3). A check on
fixed frames; the layout is the spec's decision D1. -/
def Obligations.WrittenFramesDecode : Prop :=
  decodeCommand [0x10#8, 0x10#8, 0#8, 0#8, 0#8, 0x03#8, 0#8, 0#8, 0#8, 0x40#8, 0x1F#8, 0#8, 0#8, 0x01#8] =
    .instr (.start 16#32 3#32 8000#32 1#8) [] ∧
  decodeCommand [0x30#8, 0#8, 0#8, 0#8, 0#8, 4#8, 0#8, 0#8, 0#8, 0#8, 0x80#8, 0#8, 0#8] =
    .instr (.smooth 0#32 4#32 32768#32) [] ∧
  decodeCommand [0x40#8, 7#8, 0#8, 0#8, 0#8, 0#8, 1#8, 0#8, 0#8] = .instr (.decode 7#32 256#32) [] ∧
  decodeCommand [0x11#8] = .instr .stop [] ∧ decodeCommand [0x12#8] = .instr .status []

/-! Steps. -/

/-- A step runs the decoded instruction: with nothing else due, an idle foreground takes the frame at the command port
and the step is `exec` of it, the frame's bytes consumed (20_memory.md R58, 30_encoding.md R66). The micro-steps are
the spec's decision D32, the command port D1; that bytes wait in a queue is the model's (assumption 12). -/
def Obligations.StepRunsTheFrame : Prop :=
  ∀ (s : State) (i : Instr) (rest : List Byte), s.quiet → s.fg = .idle → decodeCommand s.cmd.rx = .instr i rest →
    step s = exec i { s with cmd := { s.cmd with rx := rest } }

/-- A reserved first byte is answered with IllegalCommand, that byte alone consumed and no state changed; a frame that
is not complete is waited for (R76). The spec's decision D1; waiting as a step that changes nothing is the model's
(assumption 13). -/
def Obligations.StepAtReservedOrIncompleteFrame : Prop :=
  ∀ (s : State), s.quiet → s.fg = .idle →
    (∀ op rest, s.cmd.rx = op :: rest → op ∉ [0x10#8, 0x11#8, 0x12#8, 0x20#8, 0x30#8, 0x40#8, 0x41#8] →
      step s = .next { s with cmd := { rx := rest, tx := s.cmd.tx ++ [.illegalCommand] } }) ∧
    (decodeCommand s.cmd.rx = .incomplete → step s = .next s)

/-- At a boundary, in every state: "a pending TICK first, then a pending CANCEL, then the next foreground micro-step":
a pending TICK runs whatever else is due, a pending CANCEL runs when no TICK is pending (R163). A step at which no
arrival is scripted is this. The order is the spec's decision D30; scripted arrivals are the model's (assumption 4). -/
def Obligations.TickBeforeCancelBeforeForeground : Prop :=
  ∀ (s : State),
    (s.timer.pending = true → boundaryStep s = exec .tick s) ∧
    (s.timer.pending = false → s.cancelPending = true → boundaryStep s = exec .cancel s) ∧
    (s.timer.pending = false → s.cancelPending = false → boundaryStep s = foregroundStep s) ∧
    (s.env.boundaries = [] → step s = boundaryStep s)

/-- What arrives at a boundary: a period sets the request only while the timer is armed and a second one is lost; a
second CANCEL merges with the first; the grace period once over stays over; the host's bytes queue; nothing else
changes; then what is due runs. A period that elapses while it runs, with the timer armed before or after, is held in
the request and no disarm clears it (R26, R161, R162, R169, R189). The spec's decisions D19, D22, D23 and D30; inputs
as scripted lists are the model's (assumption 4), that bytes queue too (assumption 12), and so is against which armed
bit a period counts (assumption 19). -/
def Obligations.ArrivalsAtABoundary : Prop :=
  ∀ (s : State) (a : Arrivals) (later : List Boundary), s.env.boundaries = .arrive a :: later →
    step s = match boundaryStep { s with
      env := { s.env with boundaries := later }
      timer := { s.timer with pending := if a.period ∧ s.timer.armed then true else s.timer.pending }
      cancelPending := if a.cancel then true else s.cancelPending
      boot := { graceDone := if a.grace then true else s.boot.graceDone }
      cmd := { s.cmd with rx := s.cmd.rx ++ a.bytes } } with
    | .next t => .next { t with timer := { t.timer with
        pending := if a.during ∧ (s.timer.armed ∨ t.timer.armed) then true else t.timer.pending } }
    | .fault f => .fault f
    | .refused r => .refused r

/-- Reset is a step of its own: Idle, disarmed, nothing pending, `NEUTRAL` duty, the foreground idle without a
response, the grace period to come; storage and the tick counter are not touched (R187, R188). Every reset value but
one is the spec's decision D27; that a latched cancellation is forgotten (`cancelPending`) is the model's (assumptions
11 and 19), and so is that given responses stay (assumption 11). -/
def Obligations.ResetIsAStepOfItsOwn : Prop :=
  ∀ (s : State) (later : List Boundary), s.env.boundaries = .reset :: later →
    ∃ t, step s = .next t ∧ t.pbe.state = .idle ∧ t.timer.armed = false ∧ t.timer.pending = false ∧
      t.pwm.duty = s.cfg.neutral ∧ t.boot.graceDone = false ∧ t.fg = .idle ∧ t.cancelPending = false ∧
      t.cmd.tx = s.cmd.tx ∧ t.storage = s.storage ∧ t.cfg = s.cfg ∧ t.env.time = s.env.time ∧
      (∀ a, cellGet t.sm.cells a = none)

/-- The values R40 states for reset, in the machine `State.reset`; its parameters are the model's choice (assumption
1). Every reset value is the spec's decision D27. -/
def Obligations.ResetValues : Prop :=
  State.reset.pbe.state = .idle ∧ State.reset.timer.armed = false ∧ State.reset.timer.pending = false ∧
  State.reset.pwm.duty = State.reset.cfg.neutral ∧ State.reset.boot.graceDone = false ∧ State.reset.fg = .idle ∧
  State.reset.wd.bitsPerSample = 8#16 ∧ State.reset.wd.channels = 1#16 ∧ State.reset.wd.audioFormat = 1#16 ∧
  (∀ a, cellGet State.reset.sm.cells a = none)

/-! START. -/

/-- The checks of START, in order: while Playing Busy; else ArgumentError for a reserved `loop` bit, a rate of 0 or
above `TIMER_MAX_HZ`, or a region that does not fit; each leaves everything but the response unchanged (R134). The
checks are the spec's decision D15. -/
def Obligations.StartRefusals : Prop :=
  ∀ (base len sampleRate : Word) (loop : Byte) (s : State),
    (s.pbe.state = .playing → exec (.start base len sampleRate loop) s = .next (s.respond .busy)) ∧
    (s.pbe.state ≠ .playing →
      loop.extractLsb' 1 7 ≠ 0#7 ∨ sampleRate = 0#32 ∨ s.cfg.timerMaxHz < sampleRate.toNat ∨
        s.cfg.sampleMemBytes < base.toNat + len.toNat →
      exec (.start base len sampleRate loop) s = .next (s.respond .argumentError))

/-- A START whose checks pass while the grace period runs is held: nothing is written and nothing answered, boundary
after boundary, until the period is over, and then it proceeds as START (R137). The hold is the spec's decision D22. -/
def Obligations.StartHeldByTheGracePeriod : Prop :=
  ∀ (base len sampleRate : Word) (loop : Byte) (s : State),
    s.pbe.state ≠ .playing → loop.extractLsb' 1 7 = 0#7 → sampleRate ≠ 0#32 → sampleRate.toNat ≤ s.cfg.timerMaxHz →
    base.toNat + len.toNat ≤ s.cfg.sampleMemBytes →
    (s.boot.graceDone = false →
      exec (.start base len sampleRate loop) s = .next { s with fg := .startHeld base len sampleRate loop }) ∧
    (s.quiet → s.fg = .startHeld base len sampleRate loop → s.boot.graceDone = false → step s = .next s) ∧
    (s.quiet → s.fg = .startHeld base len sampleRate loop → s.boot.graceDone = true →
      step s = exec (.start base len sampleRate loop) { s with fg := .idle })

/-- START when its three port writes succeed: the cursor opened at 0, the carrier, then the neutral duty, then the arm
written, the state Playing, the response OK, and nothing else changed (43_playback.md section 2). The order carrier
before duty is the spec's decision D17, that START is indivisible D16. -/
def Obligations.StartBeginsASession : Prop :=
  ∀ (base len sampleRate : Word) (loop : Byte) (s : State),
    s.pbe.state ≠ .playing → loop.extractLsb' 1 7 = 0#7 → sampleRate ≠ 0#32 → sampleRate.toNat ≤ s.cfg.timerMaxHz →
    base.toNat + len.toNat ≤ s.cfg.sampleMemBytes → s.boot.graceDone = true → s.nextOk 3 →
    exec (.start base len sampleRate loop) s = .next { s with
      pbe := { state := .playing, bufBase := base, bufLen := len, position := 0#32, loop := loop.getLsbD 0 }
      timer := { armed := true, rate := sampleRate, pending := s.timer.pending }
      pwm := { freq := s.cfg.carrierHz, duty := s.cfg.neutral }
      cmd := { s.cmd with tx := s.cmd.tx ++ [.ok] }
      env := (s.drawn 3).env
      trace := okWrite (.arm sampleRate) :: okWrite (.duty s.cfg.neutral) :: okWrite (.freq s.cfg.carrierHz) :: s.trace }

/-- START when a port write fails: the rest of the `try` is skipped and the shutdown's two writes follow, nothing else
is accessed; the state is Faulted, the response HardwareFault, the cursor keeps the values START wrote; frequency and
duty are those of the writes that succeeded, the timer's rate is the old one, and nothing outside PBE's devices
changes (R136). Which write fails and what the shutdown's writes answer (`r1`, `r2`) is the oracle's. The spec's
decisions D17 and D21; that a failed write leaves its register is assumption 14. -/
def Obligations.StartFailureTakesTheFault : Prop :=
  ∀ (base len sampleRate : Word) (loop : Byte) (s : State),
    s.pbe.state ≠ .playing → loop.extractLsb' 1 7 = 0#7 → sampleRate ≠ 0#32 → sampleRate.toNat ≤ s.cfg.timerMaxHz →
    base.toNat + len.toNat ≤ s.cfg.sampleMemBytes → s.boot.graceDone = true → ¬ s.nextOk 3 →
    ∃ (r1 r2 : Bool) (tried : List AccessEvent) (freq : Word) (duty : Nat),
      ((s.faultsAhead 3 = [true, !r1, !r2] ∧ freq = s.pwm.freq ∧ duty = s.pwm.duty ∧
          tried = [failedWrite (.freq s.cfg.carrierHz)]) ∨
        (s.faultsAhead 4 = [false, true, !r1, !r2] ∧ freq = s.cfg.carrierHz ∧ duty = s.pwm.duty ∧
          tried = [failedWrite (.duty s.cfg.neutral), okWrite (.freq s.cfg.carrierHz)]) ∨
        (s.faultsAhead 5 = [false, false, true, !r1, !r2] ∧ freq = s.cfg.carrierHz ∧ duty = s.cfg.neutral ∧
          tried = [failedWrite (.arm sampleRate), okWrite (.duty s.cfg.neutral), okWrite (.freq s.cfg.carrierHz)])) ∧
      exec (.start base len sampleRate loop) s = .next { s with
        pbe := { state := .faulted, bufBase := base, bufLen := len, position := 0#32, loop := loop.getLsbD 0 }
        timer := { s.timer with armed := if r1 then false else s.timer.armed }
        pwm := { freq := freq, duty := if r2 then s.cfg.neutral else duty }
        cmd := { s.cmd with tx := s.cmd.tx ++ [.hardwareFault] }
        env := (s.drawn (tried.length + 2)).env
        trace := { access := .write (.duty s.cfg.neutral), ok := r2 } :: { access := .write .disarm, ok := r1 } ::
          (tried ++ s.trace) }

/-! TICK. -/

/-- A TICK that writes a sample: at the cursor, or at 0 where a looping cursor has reached the end, its duty is put
out and the cursor stands one past it; the request is taken and nothing else changes (43_playback.md section 4). The
scale is the spec's decision D13. -/
def Obligations.TickWritesTheSample : Prop :=
  ∀ (s : State), s.pbe.state = .playing → (s.pbe.position = s.pbe.bufLen → s.pbe.loop = true) →
    nextIndex s < s.pbe.bufLen → s.pbe.bufBase.toNat + (nextIndex s).toNat < s.cfg.sampleMemBytes → s.nextOk 2 →
    exec .tick s = .next { s with
      pbe := { s.pbe with position := nextIndex s + 1#32 }
      timer := { s.timer with pending := false }
      pwm := { s.pwm with duty := (playingSample s (nextIndex s).toNat).toNat * s.cfg.scale }
      env := (s.drawn 2).env
      trace := okWrite (.duty ((playingSample s (nextIndex s).toNat).toNat * s.cfg.scale)) ::
        { access := .fetch (nextIndex s), ok := true } :: s.trace }

/-- The TICK that finds the end of a non-looping buffer: disarm, then neutral duty, then Finished, and no sample
(R143). -/
def Obligations.TickFinishesTheBuffer : Prop :=
  ∀ (s : State), s.pbe.state = .playing → s.pbe.position = s.pbe.bufLen → s.pbe.loop = false → s.nextOk 2 →
    exec .tick s = .next { s with
      pbe := { s.pbe with state := .finished }
      timer := { s.timer with armed := false, pending := false }
      pwm := { s.pwm with duty := s.cfg.neutral }
      env := (s.drawn 2).env
      trace := okWrite (.duty s.cfg.neutral) :: okWrite .disarm :: s.trace }

/-- A TICK in any state but Playing changes nothing but the pending request (R142). For Idle and Finished the spec's
decision D19. -/
def Obligations.TickOutsidePlayingIsANoOp : Prop :=
  ∀ (s : State), s.pbe.state ≠ .playing →
    exec .tick s = .next { s with timer := { s.timer with pending := false } }

/-- A failure inside TICK: whichever access failed, both shutdown writes are attempted in order, the state is Faulted,
the cursor is not advanced (0 where the loop wrap came first), and nothing outside PBE's devices changes (R144). That
a failed write leaves its register is the spec's decision D21. -/
def Obligations.TickFailureTakesTheFault : Prop :=
  ∀ (s t : State) (added : List AccessEvent), s.pbe.state = .playing → exec .tick s = .next t →
    t.trace = added ++ s.trace → (∃ e ∈ added, e.ok = false) →
    t.pbe = { s.pbe with
      state := .faulted
      position := if s.pbe.position = s.pbe.bufLen ∧ s.pbe.loop = true then 0#32 else s.pbe.position } ∧
    (shutdownLeft s.timer.armed s.pwm.duty t ∨
      (s.pbe.position = s.pbe.bufLen ∧ s.pbe.loop = false ∧ okWrite .disarm ∈ added ∧
        shutdownLeft false s.pwm.duty t)) ∧ t.timer.rate = s.timer.rate ∧ t.timer.pending = false ∧
    t.pwm.freq = s.pwm.freq ∧ keepsData s t ∧ t.fg = s.fg ∧ t.cmd = s.cmd ∧ t.cancelPending = s.cancelPending

/-- A looping session on an empty buffer ends Faulted at its first TICK: the fetch fails without the oracle being
asked (R140). The spec's decision D20. -/
def Obligations.TickOnAnEmptyLoopFaults : Prop :=
  ∀ (s : State), s.pbe.state = .playing → s.pbe.bufLen = 0#32 → s.pbe.position = 0#32 → s.pbe.loop = true →
    ∃ t, exec .tick s = .next t ∧ t.pbe = { s.pbe with state := .faulted } ∧ t.env = (s.drawn 2).env ∧
      ∃ r1 r2, t.trace = { access := .write (.duty s.cfg.neutral), ok := r2 } ::
        { access := .write .disarm, ok := r1 } :: { access := .fetch 0#32, ok := false } :: s.trace

/-- What the interrupt context may write: whatever a TICK does, sample memory, storage, the carrier, the timer's rate,
the cursor's buffer and loop flag, the foreground's registers and the responses are unchanged, and the timer is never
armed by it (R172, 43_playback.md section 4). -/
def Obligations.TickWritesOnlyItsOwn : Prop :=
  ∀ (s t : State), exec .tick s = .next t →
    keepsData s t ∧ t.pwm.freq = s.pwm.freq ∧ t.timer.rate = s.timer.rate ∧ t.pbe.bufBase = s.pbe.bufBase ∧
    t.pbe.bufLen = s.pbe.bufLen ∧ t.pbe.loop = s.pbe.loop ∧ t.fg = s.fg ∧ t.cmd = s.cmd ∧
    t.cancelPending = s.cancelPending ∧ t.timer.pending = false ∧ (t.timer.armed = true → s.timer.armed = true)

/-! STOP, STATUS, CANCEL. -/

/-- STOP while Playing: disarm and neutral duty each attempted; Stopped and OK when both succeed, Faulted and
HardwareFault otherwise; the cursor keeps its values; nothing else changes (R145). The spec's decisions D16 and D18;
that a failed write leaves its register is D21 (assumption 14). -/
def Obligations.StopEndsTheSession : Prop :=
  ∀ (s : State) (r1 r2 : Bool), s.pbe.state = .playing → s.faultsAhead 2 = [!r1, !r2] →
    exec .stop s = .next { s with
      pbe := { s.pbe with state := if r1 ∧ r2 then .stopped else .faulted }
      timer := { s.timer with armed := if r1 then false else s.timer.armed }
      pwm := { s.pwm with duty := if r2 then s.cfg.neutral else s.pwm.duty }
      cmd := { s.cmd with tx := s.cmd.tx ++ [if r1 ∧ r2 then .ok else .hardwareFault] }
      env := (s.drawn 2).env
      trace := { access := .write (.duty s.cfg.neutral), ok := r2 } :: { access := .write .disarm, ok := r1 } :: s.trace }

/-- STOP in any other state responds OK and changes nothing (R145). For Idle the spec's decision D18. -/
def Obligations.StopOutsidePlayingIsANoOp : Prop :=
  ∀ (s : State), s.pbe.state ≠ .playing → exec .stop s = .next { s with cmd := { s.cmd with tx := s.cmd.tx ++ [.ok] } }

/-- STATUS responds OK with the code of `pbe.state` and changes nothing (R146, R22); and the bytes of every response
frame: the code byte of R73, then the payload of R72, numbers little-endian, with the subcodes of R74. The spec's
decisions D33 and, for the codes, D3, D14 and D24. -/
def Obligations.StatusAnswersTheState : Prop :=
  (∀ (s : State), exec .status s = .next { s with cmd := { s.cmd with tx := s.cmd.tx ++ [.status s.pbe.state] } }) ∧
  (∀ state : Engine, (Response.status state).bytes = [0x00#8, match state with
    | .idle => 0#8 | .playing => 1#8 | .finished => 2#8 | .stopped => 3#8 | .faulted => 4#8]) ∧
  (∀ len rate : Word, (Response.decoded len rate).bytes = [0x00#8,
    len.extractLsb' 0 8, len.extractLsb' 8 8, len.extractLsb' 16 8, len.extractLsb' 24 8,
    rate.extractLsb' 0 8, rate.extractLsb' 8 8, rate.extractLsb' 16 8, rate.extractLsb' 24 8]) ∧
  (∀ count : Word, (Response.captured count).bytes = [0x00#8,
    count.extractLsb' 0 8, count.extractLsb' 8 8, count.extractLsb' 16 8, count.extractLsb' 24 8]) ∧
  (∀ e : FormatError, (Response.formatError e).bytes = [0x01#8, match e with
    | .badRiffMarker => 1#8 | .badWaveMarker => 2#8 | .badFmtMarker => 3#8 | .fmtTruncated => 4#8 | .notPcm => 5#8
    | .badChannels => 6#8 | .badBitDepth => 7#8 | .dataChunkMissing => 8#8 | .dataTruncated => 9#8]) ∧
  Response.ok.bytes = [0x00#8] ∧ Response.ioError.bytes = [0x02#8] ∧ Response.hardwareFault.bytes = [0x03#8] ∧
  Response.argumentError.bytes = [0x04#8] ∧ Response.busy.bytes = [0x05#8] ∧
  Response.illegalCommand.bytes = [0x06#8] ∧ Response.interrupted.bytes = [0x07#8]

/-- CANCEL: an operation in progress is abandoned without a response of its own; while Playing the teardown of STOP
runs; the one response is Interrupted, also when the teardown failed; nothing else changes (R147). The spec's decision
D23; that a failed write leaves its register is D21 (assumption 14). -/
def Obligations.CancelTearsDown : Prop :=
  ∀ (s : State),
    (s.pbe.state ≠ .playing → exec .cancel s = .next { s with
      fg := .idle, cancelPending := false, cmd := { s.cmd with tx := s.cmd.tx ++ [.interrupted] } }) ∧
    (∀ r1 r2 : Bool, s.pbe.state = .playing → s.faultsAhead 2 = [!r1, !r2] →
      exec .cancel s = .next { s with
        fg := .idle
        cancelPending := false
        pbe := { s.pbe with state := if r1 ∧ r2 then .stopped else .faulted }
        timer := { s.timer with armed := if r1 then false else s.timer.armed }
        pwm := { s.pwm with duty := if r2 then s.cfg.neutral else s.pwm.duty }
        cmd := { s.cmd with tx := s.cmd.tx ++ [.interrupted] }
        env := (s.drawn 2).env
        trace := { access := .write (.duty s.cfg.neutral), ok := r2 } ::
          { access := .write .disarm, ok := r1 } :: s.trace })

/-- `DefensiveShutdown()`: disarm then neutral duty, both always attempted, a failed write leaving its register
(R138). That a failed write leaves its register is the spec's decision D21 (R159, assumption 14). -/
def Obligations.ShutdownAttemptsBoth : Prop :=
  ∀ (s : State) (r1 r2 : Bool), s.faultsAhead 2 = [!r1, !r2] →
    s.defensiveShutdown = (r1, r2, { s with
      timer := { s.timer with armed := if r1 then false else s.timer.armed }
      pwm := { s.pwm with duty := if r2 then s.cfg.neutral else s.pwm.duty }
      env := (s.drawn 2).env
      trace := { access := .write (.duty s.cfg.neutral), ok := r2 } ::
        { access := .write .disarm, ok := r1 } :: s.trace })

/-! Faults and invariants. -/

/-- Fault containment: a TICK during a session in which some access fails ends Faulted, and when the shutdown's two
writes (the last two accesses) succeed, with neutral duty and the timer disarmed, "regardless of which sub-step
failed" (43_playback.md section 6). -/
def Obligations.FaultInsideTickIsContained : Prop :=
  ∀ (s t : State) (added : List AccessEvent), s.pbe.state = .playing → exec .tick s = .next t →
    t.trace = added ++ s.trace → (∃ e ∈ added, e.ok = false) →
    t.pbe.state = .faulted ∧
    ((∀ e ∈ t.trace.take 2, e.ok = true) → t.pwm.duty = s.cfg.neutral ∧ t.timer.armed = false)

/-- A step in which any access fails ends with `pbe.state = Faulted` (43_playback.md section 6). It follows from the
operations by induction, as the spec marks R148. -/
def Obligations.FailingStepEndsFaulted : Prop :=
  ∀ (s t : State) (added : List AccessEvent), step s = .next t → t.trace = added ++ s.trace →
    (∃ e ∈ added, e.ok = false) → t.pbe.state = .faulted

/-- Every step keeps the neutral-output invariant: as long as no port write has failed since reset, the timer is armed
while Playing, and outside Playing the duty is neutral and the timer disarmed (10_state.md section 8). The spec
derives it (R38, R148). -/
def Obligations.NeutralOutputKept : Prop :=
  ∀ (s t : State), NeutralInv s → step s = .next t → NeutralInv t

/-- Every step keeps the invariant of the machine: legal parameters, canonical memories inside their spaces, a legal
duty, clock registers of `TICK_BITS` bits, a cursor inside its buffer, an operation in progress as its checks left it
(10_state.md section 8). The clauses on memories and on the operation in progress are the model's. -/
def Obligations.InvariantKept : Prop :=
  ∀ (s t : State), Inv s → step s = .next t → Inv t

/-- The invariant of the machine and the neutral-output invariant hold at reset, whatever legal parameters it has. -/
def Obligations.InvariantsAtReset : Prop :=
  Inv State.reset ∧ NeutralInv State.reset ∧
    ∀ p : Params, p.wf → Inv (State.resetOf p) ∧ NeutralInv (State.resetOf p)

/-- From a state with the invariant every step gives a next state: no access outside sample memory is ever made (R48). -/
def Obligations.StepAlwaysGoesOn : Prop :=
  ∀ (s : State), Inv s → ∃ t, step s = .next t

/-- Every instruction completes: from a state with the invariant `exec` answers a next state, whatever the operands
and whatever the environment answers. -/
def Obligations.EveryInstructionCompletes : Prop :=
  ∀ (i : Instr) (s : State), Inv s → ∃ t, exec i s = .next t

/-- A single-shot session on `N` samples with no failure: the `k`-th TICK puts out sample `k - 1`, and from TICK `N +
1` on the engine is Finished at neutral duty with the timer disarmed (43_playback.md section 6, 90_conflicts.md C2).
The reading is the spec's (C2). -/
def Obligations.SingleShotSessionFinishes : Prop :=
  ∀ (s : State), s.pbe.state = .playing → s.pbe.loop = false → s.pbe.position = 0#32 →
    s.pbe.bufBase.toNat + s.pbe.bufLen.toNat ≤ s.cfg.sampleMemBytes → s.nextOk (2 * s.pbe.bufLen.toNat + 2) →
    (∀ k, 1 ≤ k → k ≤ s.pbe.bufLen.toNat → ∃ t, tickRun k s = .next t ∧ t.pbe.state = .playing ∧
      t.pbe.position.toNat = k ∧ t.pwm.duty = dutyOf s.cfg (playingSample s (k - 1))) ∧
    (∀ k, s.pbe.bufLen.toNat < k → ∃ t, tickRun k s = .next t ∧ t.pbe.state = .finished ∧
      t.pbe.position = s.pbe.bufLen ∧ t.pwm.duty = s.cfg.neutral ∧ t.timer.armed = false)

/-- A looping session on `N >= 1` samples with no failure: the `k`-th TICK puts out sample `(k - 1) mod N` and the
engine never leaves Playing (43_playback.md section 6). -/
def Obligations.LoopingSessionRepeats : Prop :=
  ∀ (s : State) (n : Nat), s.pbe.state = .playing → s.pbe.loop = true → s.pbe.position = 0#32 → s.pbe.bufLen ≠ 0#32 →
    s.pbe.bufBase.toNat + s.pbe.bufLen.toNat ≤ s.cfg.sampleMemBytes → s.nextOk (2 * n) →
    ∀ k, 1 ≤ k → k ≤ n → ∃ t, tickRun k s = .next t ∧ t.pbe.state = .playing ∧
      t.pbe.position.toNat = (k - 1) % s.pbe.bufLen.toNat + 1 ∧
      t.pwm.duty = dutyOf s.cfg (playingSample s ((k - 1) % s.pbe.bufLen.toNat))

/-- A looping session run for `3N` TICKs fetches index 0 exactly three times (43_playback.md section 6). -/
def Obligations.LoopVisitsIndexZeroThreeTimes : Prop :=
  ∀ (s : State), s.pbe.state = .playing → s.pbe.loop = true → s.pbe.position = 0#32 → s.pbe.bufLen ≠ 0#32 →
    s.pbe.bufBase.toNat + s.pbe.bufLen.toNat ≤ s.cfg.sampleMemBytes → s.nextOk (6 * s.pbe.bufLen.toNat) →
    ∃ t, tickRun (3 * s.pbe.bufLen.toNat) s = .next t ∧ t.pbe.state = .playing ∧
      t.trace.count { access := .fetch 0#32, ok := true } = s.trace.count { access := .fetch 0#32, ok := true } + 3

/-- The buffer being played is read-only: over any step of a session that stays Playing, the region is the same and
every byte of it reads as before (20_memory.md section 3, 70_reset_and_hazards.md section 3). The refusal of writes to
it is the spec's decision D29. -/
def Obligations.PlayingBufferIsReadOnly : Prop :=
  ∀ (s t : State), Inv s → step s = .next t → s.pbe.state = .playing → t.pbe.state = .playing →
    t.pbe.bufBase = s.pbe.bufBase ∧ t.pbe.bufLen = s.pbe.bufLen ∧
    ∀ i, i < s.pbe.bufLen.toNat → playingSample t i = playingSample s i

/-- The transitions of the engine: `exec` leaves the state, or START begins or faults from a state that is not
Playing, or a TICK finishes a non-looping buffer at its end or faults, or STOP or CANCEL stops or faults
(43_playback.md section 1). -/
def Obligations.EngineTransitions : Prop :=
  ∀ (i : Instr) (s t : State), exec i s = .next t →
    t.pbe.state = s.pbe.state ∨
    (s.pbe.state ≠ .playing ∧ i.opcode = .start ∧ (t.pbe.state = .playing ∨ t.pbe.state = .faulted)) ∨
    (s.pbe.state = .playing ∧ i = .tick ∧
      (t.pbe.state = .faulted ∨
        (t.pbe.state = .finished ∧ s.pbe.loop = false ∧ s.pbe.position = s.pbe.bufLen))) ∨
    (s.pbe.state = .playing ∧ (i = .stop ∨ i = .cancel) ∧ (t.pbe.state = .stopped ∨ t.pbe.state = .faulted))

/-- "There is no transition back to Idle except reset", and no step changes a parameter (R132, R35). That parameters
are carried in the state is the model's (assumption 1). -/
def Obligations.OnlyResetReturnsToIdle : Prop :=
  ∀ (s t : State), step s = .next t →
    t.cfg = s.cfg ∧ (t.pbe.state = .idle → s.pbe.state = .idle ∨ s.env.boundaries.head? = some .reset)

/-! CAPTURE. -/

/-- The checks of CAPTURE: ArgumentError for a rate of 0, a period of 0, a period of `M/2` or more, or a region that
does not fit (product and sum unbounded); else Busy for a region that overlaps the one being played; each leaves
everything but the response unchanged (R113). The checks are the spec's decisions D9 and D29. -/
def Obligations.CaptureRefusals : Prop :=
  ∀ (dst sampleRate duration : Word) (s : State),
    (sampleRate = 0#32 ∨ period s.cfg sampleRate.toNat = 0 ∨
      s.cfg.modulus / 2 ≤ period s.cfg sampleRate.toNat ∨
      s.cfg.sampleMemBytes < dst.toNat + sampleRate.toNat * duration.toNat →
      exec (.capture dst sampleRate duration) s = .next (s.respond .argumentError)) ∧
    (sampleRate ≠ 0#32 → period s.cfg sampleRate.toNat ≠ 0 → period s.cfg sampleRate.toNat < s.cfg.modulus / 2 →
      dst.toNat + sampleRate.toNat * duration.toNat ≤ s.cfg.sampleMemBytes →
      s.pbe.state = .playing → 0 < sampleRate.toNat * duration.toNat → 0 < s.pbe.bufLen.toNat →
      dst.toNat < s.pbe.bufBase.toNat + s.pbe.bufLen.toNat →
      s.pbe.bufBase.toNat < dst.toNat + sampleRate.toNat * duration.toNat →
      exec (.capture dst sampleRate duration) s = .next (s.respond .busy))

/-- CAPTURE's set-up: count, period, the initial deadline as read from `PORT_TICK`, index 0; then the busy-wait, or
for a count of 0 the response at once; nothing else changes, sample memory included (41_capture.md section 2). That a
count of 0 is answered in the set-up's own micro-step is the model's (assumption 16); for a product of `2^32`, which
the 32-bit count register cannot hold, the statement says nothing of the register's value (assumption 6). -/
def Obligations.CaptureSetsUp : Prop :=
  ∀ (dst sampleRate duration : Word) (s : State),
    sampleRate ≠ 0#32 → period s.cfg sampleRate.toNat ≠ 0 → period s.cfg sampleRate.toNat < s.cfg.modulus / 2 →
    dst.toNat + sampleRate.toNat * duration.toNat ≤ s.cfg.sampleMemBytes →
    regionBusy s dst.toNat (sampleRate.toNat * duration.toNat) = false →
    ∃ count : Word,
      (sampleRate.toNat * duration.toNat < 2 ^ 32 → count.toNat = sampleRate.toNat * duration.toNat) ∧
      exec (.capture dst sampleRate duration) s = .next { s with
        cap := { nextDeadline := s.readTick.1, period := period s.cfg sampleRate.toNat, index := 0#32, count := count }
        fg := if count = 0#32 then s.fg else .captureWait dst
        cmd := if count = 0#32 then { s.cmd with tx := s.cmd.tx ++ [.captured 0#32] } else s.cmd
        env := s.readTick.2.env
        trace := { access := .readTick s.readTick.1, ok := true } :: s.trace }

/-- One poll of the busy-wait: the sample is due when `TickDiff(now, cap.next_deadline) >= 0`, else CAPTURE polls
again; nothing else changes (41_capture.md section 2). A poll is one micro-step by the spec's decision D32. -/
def Obligations.CapturePolls : Prop :=
  ∀ (dst : Word) (s : State), s.quiet → s.fg = .captureWait dst →
    step s = .next { s with
      fg := if 0 ≤ tickDiff s.cfg s.readTick.1 s.cap.nextDeadline then .captureTake dst else .captureWait dst
      env := s.readTick.2.env
      trace := { access := .readTick s.readTick.1, ok := true } :: s.trace }

/-- One sample: the deadline advanced by exactly one period, one converter reading quantised and stored at the current
index, the index advanced; when the last slot is filled the response is OK with the count; every other byte of memory
and every other register is unchanged (41_capture.md section 2). That the last sample's micro-step gives the response
is the model's (assumption 16). -/
def Obligations.CaptureTakesOneSample : Prop :=
  ∀ (dst : Word) (s : State), s.quiet → s.fg = .captureTake dst → s.cap.index < s.cap.count →
    dst.toNat + s.cap.count.toNat ≤ s.cfg.sampleMemBytes →
    ∃ t, step s = .next t ∧
      t.cap = { s.cap with
        nextDeadline := tickAdd s.cfg s.cap.nextDeadline s.cap.period, index := s.cap.index + 1#32 } ∧
      t.sm.read (dst.toNat + s.cap.index.toNat) = quantize s.cfg s.readAdc.1 ∧
      (∀ a, a ≠ dst.toNat + s.cap.index.toNat → t.sm.read a = s.sm.read a) ∧
      (s.cap.index.toNat + 1 < s.cap.count.toNat → t.fg = .captureWait dst ∧ t.cmd = s.cmd) ∧
      (s.cap.index.toNat + 1 = s.cap.count.toNat → t.fg = .idle ∧
        t.cmd = { s.cmd with tx := s.cmd.tx ++ [.captured s.cap.count] }) ∧
      t.env = s.readAdc.2.env ∧ t.trace = { access := .readAdc s.readAdc.1, ok := true } :: s.trace ∧
      t.pbe = s.pbe ∧ t.timer = s.timer ∧ t.pwm = s.pwm ∧ t.cfg = s.cfg ∧ t.flt = s.flt ∧ t.wvc = s.wvc ∧
      t.wd = s.wd ∧ t.boot = s.boot ∧ t.storage = s.storage ∧ t.cancelPending = s.cancelPending

/-- A capture left to itself, after any number of steps: `k` slots are filled, slot `i` with the `(i+1)`-th converter
reading, quantised, none skipped or duplicated; the deadline is the initial one plus `k` periods, whatever the polls
read; every byte outside the filled slots is unchanged; the response comes with the last slot and not before
(41_capture.md section 2). The spec derives it (R114, R115); that the last sample's micro-step gives the response is
the model's (assumption 16). -/
def Obligations.CaptureFillsSlotsInOrder : Prop :=
  ∀ (dst : Word) (s : State) (n : Nat), s.quiet → s.cmd.rx = [] → s.fg = .captureWait dst →
    s.cap.index = 0#32 → s.cap.count ≠ 0#32 → s.cap.nextDeadline < s.cfg.modulus →
    dst.toNat + s.cap.count.toNat ≤ s.cfg.sampleMemBytes → s.cap.count.toNat ≤ s.env.adcReadings.length →
    ∃ t k, stepRun n s = .next t ∧ k ≤ s.cap.count.toNat ∧
      t.cap = { s.cap with
        nextDeadline := (s.cap.nextDeadline + k * s.cap.period) % s.cfg.modulus, index := BitVec.ofNat 32 k } ∧
      (∀ i, i < k → t.sm.read (dst.toNat + i) =
        quantize s.cfg (s.env.adcReadings.getD i 0 % 2 ^ s.cfg.adcBits)) ∧
      (∀ a, a < dst.toNat ∨ dst.toNat + k ≤ a → t.sm.read a = s.sm.read a) ∧
      (k < s.cap.count.toNat → (t.fg = .captureWait dst ∨ t.fg = .captureTake dst) ∧ t.cmd = s.cmd) ∧
      (k = s.cap.count.toNat → t.fg = .idle ∧
        t.cmd = { s.cmd with tx := s.cmd.tx ++ [.captured s.cap.count] }) ∧
      t.env.adcReadings = s.env.adcReadings.drop k ∧
      t.pbe = s.pbe ∧ t.timer = s.timer ∧ t.pwm = s.pwm ∧ t.cfg = s.cfg ∧ t.flt = s.flt ∧ t.wvc = s.wvc ∧
      t.wd = s.wd ∧ t.boot = s.boot ∧ t.storage = s.storage

/-- A reading of `PORT_TICK` is the true time mod `M`, and true time never goes back (R112 (a) (b)). The spec's
decision D38. -/
def Obligations.TickReadingsNeverGoBack : Prop :=
  ∀ (s : State), s.readTick.1 < s.cfg.modulus ∧
    s.env.time ≤ s.readTick.2.env.time ∧ s.readTick.1 = s.readTick.2.env.time % s.cfg.modulus

/-- `TickAdd(t, p) = (t + p) mod M`, a tick value again (R107). -/
def Obligations.TickAddWraps : Prop :=
  ∀ (cfg : Params) (t p : Nat), tickAdd cfg t p = (t + p) % 2 ^ cfg.tickBits ∧ tickAdd cfg t p < 2 ^ cfg.tickBits

/-- `TickDiff(a, b)` is `(a - b) mod M` read as a signed number of `TICK_BITS` bits: in `-M/2 .. M/2 - 1`, congruent
to `a - b`, and the two's-complement reading (R108). That `M` is a power of two is the spec's decision D6. -/
def Obligations.TickDiffIsTheSignedDistance : Prop :=
  ∀ (cfg : Params) (a b : Nat), 3 ≤ cfg.tickBits → a < cfg.modulus → b < cfg.modulus →
    -((cfg.modulus / 2 : Nat) : Int) ≤ tickDiff cfg a b ∧ tickDiff cfg a b < ((cfg.modulus / 2 : Nat) : Int) ∧
    (tickDiff cfg a b - ((a : Int) - (b : Int))) % (cfg.modulus : Int) = 0 ∧
    tickDiff cfg a b = (BitVec.ofNat cfg.tickBits a - BitVec.ofNat cfg.tickBits b).toInt

/-- `Period(r)` is the whole number nearest to `1_000_000 / r`, a tie going to the even one; it is 0 exactly for rates
of 2000000 and more (R109). The tie rule is the spec's decision D8. -/
def Obligations.PeriodRoundsToNearest : Prop :=
  ∀ (cfg : Params) (r : Nat), cfg.roundTie = .even → 1 ≤ r →
    2 * (period cfg r * r) ≤ 2 * 1000000 + r ∧ 2 * 1000000 ≤ 2 * (period cfg r * r) + r ∧
    ((2 * (period cfg r * r) = 2 * 1000000 + r ∨ 2 * 1000000 = 2 * (period cfg r * r) + r) → period cfg r % 2 = 0) ∧
    (period cfg r = 0 ↔ 2000000 ≤ r)

/-- `Quantize(raw)` is `raw >> (ADC_BITS - 8)`, in 0 to 255, nothing lost at the top (R110). -/
def Obligations.QuantizeKeepsTheTopByte : Prop :=
  ∀ (cfg : Params) (raw : Nat), 8 ≤ cfg.adcBits → raw < 2 ^ cfg.adcBits →
    (quantize cfg raw).toNat = raw / 2 ^ (cfg.adcBits - 8)

/-! SMOOTH. -/

/-- The checks of SMOOTH: ArgumentError for `alpha` outside `(0, 1]`, also on an empty buffer, or a region that does
not fit; else Busy for a region that overlaps the one being played; each leaves everything but the response unchanged
(R123). Rejecting `alpha` is the spec's decision D11, the busy check D29. -/
def Obligations.SmoothRefusals : Prop :=
  ∀ (base len alphaQ : Word) (s : State),
    (alphaQ = 0#32 ∨ 2 ^ s.cfg.alphaFracBits < alphaQ.toNat ∨ s.cfg.sampleMemBytes < base.toNat + len.toNat →
      exec (.smooth base len alphaQ) s = .next (s.respond .argumentError)) ∧
    (alphaQ ≠ 0#32 → alphaQ.toNat ≤ 2 ^ s.cfg.alphaFracBits → base.toNat + len.toNat ≤ s.cfg.sampleMemBytes →
      s.pbe.state = .playing → 0 < len.toNat → 0 < s.pbe.bufLen.toNat →
      base.toNat < s.pbe.bufBase.toNat + s.pbe.bufLen.toNat → s.pbe.bufBase.toNat < base.toNat + len.toNat →
      exec (.smooth base len alphaQ) s = .next (s.respond .busy))

/-- SMOOTH: the first sample unmodified, every later one the floor of the exact running average of the samples as they
were, the accumulator carried unrounded; every byte outside the region, every other register and the ports unchanged
(42_filter.md sections of R122, R124, R125). Exact arithmetic is the spec's decision D10, the unrounded accumulator
D12. -/
def Obligations.SmoothStoresTheRunningAverage : Prop :=
  ∀ (base len alphaQ : Word) (s : State),
    alphaQ ≠ 0#32 → alphaQ.toNat ≤ 2 ^ s.cfg.alphaFracBits → base.toNat + len.toNat ≤ s.cfg.sampleMemBytes →
    regionBusy s base.toNat len.toNat = false →
    ∃ t, exec (.smooth base len alphaQ) s = .next t ∧
      (∀ i, 1 ≤ i → i < len.toNat → t.sm.read (base.toNat + i) =
        BitVec.ofInt 8 (runningAverage (alphaOf s.cfg alphaQ) (fun j => s.sm.read (base.toNat + j)) i).floor) ∧
      (∀ a, a ≤ base.toNat ∨ base.toNat + len.toNat ≤ a → t.sm.read a = s.sm.read a) ∧
      (len ≠ 0#32 → t.flt.y =
        runningAverage (alphaOf s.cfg alphaQ) (fun j => s.sm.read (base.toNat + j)) (len.toNat - 1) ∧
        t.flt.index = len) ∧
      (len = 0#32 → t.flt = s.flt) ∧
      t.cmd = { s.cmd with tx := s.cmd.tx ++ [.ok] } ∧ keepsPlayback s t ∧ t.cfg = s.cfg ∧ t.cap = s.cap ∧
      t.wvc = s.wvc ∧ t.wd = s.wd ∧ t.boot = s.boot ∧ t.fg = s.fg ∧ t.cancelPending = s.cancelPending ∧
      t.storage = s.storage ∧ t.env = s.env

/-- For `alpha` in `(0, 1]` the accumulator stays in `[0, 255]`, so its floor is the stored byte and the mask changes
nothing (R126). The spec derives it (R126). -/
def Obligations.SmoothStaysInRange : Prop :=
  ∀ (cfg : Params) (alphaQ : Word) (x : Nat → Byte) (n : Nat), alphaAdmitted cfg alphaQ = true →
    0 ≤ runningAverage (alphaOf cfg alphaQ) x n ∧ runningAverage (alphaOf cfg alphaQ) x n ≤ 255 ∧
    ((smoothByte (runningAverage (alphaOf cfg alphaQ) x n)).toNat : Int) =
      (runningAverage (alphaOf cfg alphaQ) x n).floor

/-- `alpha = 1` leaves every byte as it was, and so does every `alpha` on a constant buffer (R129). The spec derives
it (R129). -/
def Obligations.SmoothFixedPoints : Prop :=
  ∀ (base len alphaQ : Word) (s t : State), alphaAdmitted s.cfg alphaQ = true →
    (alphaQ.toNat = 2 ^ s.cfg.alphaFracBits ∨
      ∃ b, ∀ i, i < len.toNat → s.sm.read (base.toNat + i) = b) →
    exec (.smooth base len alphaQ) s = .next t → ∀ a, t.sm.read a = s.sm.read a

/-! ENCODE and DECODE. -/

/-- The checks of ENCODE: ArgumentError for a region that does not fit or a length above `2^32 - 37`, before storage
is touched; everything but the response unchanged (R99, 40_wav_codec.md section 2). The length check is the spec's
decision D25. -/
def Obligations.EncodeRefusals : Prop :=
  ∀ (pathId base len sampleRate : Word) (s : State),
    s.cfg.sampleMemBytes < base.toNat + len.toNat ∨ 2 ^ 32 - 37 < len.toNat →
    exec (.encode pathId base len sampleRate) s = .next (s.respond .argumentError)

/-- ENCODE when the storage write succeeds: under `path_id` stands the canonical container of the region's samples,
the descriptor holds rate and count, the response is OK; every other stream, sample memory and everything else
unchanged (30_encoding.md section 5, 40_wav_codec.md section 2). The tags' byte values are general knowledge (the
spec's decision D37, assumption 10). -/
def Obligations.EncodeStoresTheContainer : Prop :=
  ∀ (pathId base len sampleRate : Word) (s : State),
    base.toNat + len.toNat ≤ s.cfg.sampleMemBytes → len.toNat ≤ 2 ^ 32 - 37 → s.drawStoreResult.1 = .stored →
    ∃ t stream, exec (.encode pathId base len sampleRate) s = .next t ∧
      cellGet t.storage pathId.toNat = some stream ∧
      (∀ k, k ≠ pathId.toNat → cellGet t.storage k = cellGet s.storage k) ∧
      stream.length = 44 + len.toNat ∧
      stream.take 44 = [0x52#8, 0x49#8, 0x46#8, 0x46#8] ++ le32 (36#32 + len) ++
        [0x57#8, 0x41#8, 0x56#8, 0x45#8, 0x66#8, 0x6D#8, 0x74#8, 0x20#8, 16#8, 0#8, 0#8, 0#8, 1#8, 0#8, 1#8, 0#8] ++
        le32 sampleRate ++ le32 sampleRate ++ [1#8, 0#8, 8#8, 0#8, 0x64#8, 0x61#8, 0x74#8, 0x61#8] ++ le32 len ∧
      (∀ i, i < len.toNat → stream[44 + i]? = some (s.sm.read (base.toNat + i))) ∧
      t.wd = { sampleRate := sampleRate, sampleCount := len } ∧ t.cmd = { s.cmd with tx := s.cmd.tx ++ [.ok] } ∧
      t.sm = s.sm ∧ keepsPlayback s t ∧ t.cfg = s.cfg ∧ t.cap = s.cap ∧ t.flt = s.flt ∧ t.wvc = s.wvc ∧
      t.boot = s.boot ∧ t.fg = s.fg ∧ t.cancelPending = s.cancelPending ∧ t.env = s.drawStoreResult.2.env

/-- ENCODE when the storage write fails: IOError, `wd.*` unchanged, every other stream unchanged, and under `path_id`
nothing, the old stream or a prefix of the new one (R101, R49, U6). What a failed write leaves is the spec's U6. -/
def Obligations.EncodeFailureLeavesOldOrPrefix : Prop :=
  ∀ (pathId base len sampleRate : Word) (s : State),
    base.toNat + len.toNat ≤ s.cfg.sampleMemBytes → len.toNat ≤ 2 ^ 32 - 37 → s.drawStoreResult.1 ≠ .stored →
    ∃ t, exec (.encode pathId base len sampleRate) s = .next t ∧
      (cellGet t.storage pathId.toNat = none ∨ cellGet t.storage pathId.toNat = cellGet s.storage pathId.toNat ∨
        ∃ n, cellGet t.storage pathId.toNat =
          some ((wavContainer sampleRate (s.sm.readList base.toNat len.toNat)).take n)) ∧
      (∀ k, k ≠ pathId.toNat → cellGet t.storage k = cellGet s.storage k) ∧
      t.cmd = { s.cmd with tx := s.cmd.tx ++ [.ioError] } ∧ t.wd = s.wd ∧ t.sm = s.sm ∧ keepsPlayback s t ∧
      t.cfg = s.cfg ∧ t.cap = s.cap ∧ t.flt = s.flt ∧ t.wvc = s.wvc ∧ t.boot = s.boot ∧ t.fg = s.fg ∧
      t.cancelPending = s.cancelPending

/-- DECODE accepts the grammar of R82: any overall size, a format sub-chunk of 16 bytes or more, any `byte_rate` and
`block_align`, any chunks skipped before `data`, any bytes after the samples. The samples stand at `dst` in order,
every other byte and register is unchanged, the descriptor and the response give rate and count. The spec's decisions
D24, D26, D35 and D37. -/
def Obligations.DecodeAcceptsTheGrammar : Prop :=
  ∀ (pathId dst z rate byteRate : Word) (align : BitVec 16) (extra samples trailing : List Byte)
    (skipped : List (List Byte × List Byte)) (stream : List Byte) (s : State),
    stream = streamOf z (formatPayload 1#16 1#16 rate byteRate align 8#16 extra) skipped
      (chunkBytes tagData samples ++ trailing) →
    skippable skipped → stream.length < 2 ^ 32 →
    s.drawReadFails.1 = false → cellGet s.storage pathId.toNat = some stream →
    dst.toNat + samples.length ≤ s.cfg.sampleMemBytes → regionBusy s dst.toNat samples.length = false →
    ∃ t, exec (.decode pathId dst) s = .next t ∧
      (∀ i, (h : i < samples.length) → t.sm.read (dst.toNat + i) = samples[i]) ∧
      (∀ a, a < dst.toNat ∨ dst.toNat + samples.length ≤ a → t.sm.read a = s.sm.read a) ∧
      t.wd = { sampleRate := rate, sampleCount := BitVec.ofNat 32 samples.length } ∧
      t.wvc.offset.toNat + trailing.length = stream.length ∧
      t.cmd = { s.cmd with tx := s.cmd.tx ++ [.decoded (BitVec.ofNat 32 samples.length) rate] } ∧
      keepsPlayback s t ∧ t.cfg = s.cfg ∧ t.cap = s.cap ∧ t.flt = s.flt ∧ t.boot = s.boot ∧ t.fg = s.fg ∧
      t.cancelPending = s.cancelPending ∧ t.storage = s.storage ∧ t.env = s.drawReadFails.2.env

/-- The rejections of DECODE's reader, in the order of its checks: the three markers; FmtTruncated where the stream
ends inside the overall size, the format size or the format payload, or the format size is below 16; the format fields
before any look at the chunks; then no `data` chunk because the stream ends or a skip reaches past its end, or a cut
one (R92, R93, R94, R95). The subcodes and their order are the spec's decision D24. -/
def Obligations.ContainerRejections : Prop :=
  (∀ stream : List Byte, stream.take 4 ≠ tagRiff → ∃ off, readWav stream = .bad off .badRiffMarker) ∧
  (∀ stream : List Byte, stream.take 4 = tagRiff → stream.length < 8 → ∃ off, readWav stream = .bad off .fmtTruncated) ∧
  (∀ stream : List Byte, stream.take 4 = tagRiff → 8 ≤ stream.length → (stream.drop 8).take 4 ≠ tagWave →
    ∃ off, readWav stream = .bad off .badWaveMarker) ∧
  (∀ stream : List Byte, stream.take 4 = tagRiff → (stream.drop 8).take 4 = tagWave →
    ((stream.drop 12).take 4 ≠ tagFmt → ∃ off, readWav stream = .bad off .badFmtMarker) ∧
    ((stream.drop 12).take 4 = tagFmt →
      stream.length < 20 ∨ (field32 stream 16).toNat < 16 ∨ stream.length < 20 + (field32 stream 16).toNat →
      ∃ off, readWav stream = .bad off .fmtTruncated)) ∧
  (∀ (z rate byteRate : Word) (format channels align bits : BitVec 16) (extra rest : List Byte)
    (skipped : List (List Byte × List Byte)), extra.length + 16 < 2 ^ 32 → skippable skipped →
    let stream := streamOf z (formatPayload format channels rate byteRate align bits extra) skipped rest
    (format ≠ 1#16 → ∃ off, readWav stream = .bad off .notPcm) ∧
    (format = 1#16 → channels ≠ 1#16 → ∃ off, readWav stream = .bad off .badChannels) ∧
    (format = 1#16 → channels = 1#16 → bits ≠ 8#16 → ∃ off, readWav stream = .bad off .badBitDepth) ∧
    (format = 1#16 → channels = 1#16 → bits = 8#16 →
      (rest.length < 8 → ∃ off, readWav stream = .bad off .dataChunkMissing) ∧
      (∀ (tag payload : List Byte) (n : Word), rest = tag ++ le32 n ++ payload → tag.length = 4 →
        payload.length < n.toNat →
        ∃ off, readWav stream = .bad off (if tag = tagData then .dataTruncated else .dataChunkMissing))))

/-- When DECODE does not succeed: IOError for a failed or missing read, the reader's FormatError, ArgumentError for
samples that do not fit, Busy for a region being played; sample memory, the descriptor and everything but
`wvc.offset`, the response and the input read are unchanged (R97, R151, R152). The two refusals are the spec's
decisions D4 and D29. -/
def Obligations.DecodeFailuresWriteNothing : Prop :=
  ∀ (pathId dst : Word) (s : State), ∃ (t : State) (r : Response), exec (.decode pathId dst) s = .next t ∧
    t.cmd = { s.cmd with tx := s.cmd.tx ++ [r] } ∧
    (s.drawReadFails.1 = true ∨ cellGet s.storage pathId.toNat = none → r = .ioError ∧ t.wvc = s.wvc) ∧
    (s.drawReadFails.1 = false → ∀ stream, cellGet s.storage pathId.toNat = some stream → stream.length < 2 ^ 32 →
      (∀ off e, readWav stream = .bad off e → r = .formatError e) ∧
      (∀ off rate count, readWav stream = .good off rate count →
        (s.cfg.sampleMemBytes < dst.toNat + count.toNat → r = .argumentError) ∧
        (dst.toNat + count.toNat ≤ s.cfg.sampleMemBytes → regionBusy s dst.toNat count.toNat = true → r = .busy))) ∧
    ((∀ len rate, r ≠ .decoded len rate) → t.sm = s.sm ∧ t.wd = s.wd) ∧
    t.storage = s.storage ∧ keepsPlayback s t ∧ t.cfg = s.cfg ∧ t.cap = s.cap ∧ t.flt = s.flt ∧ t.boot = s.boot ∧
    t.fg = s.fg ∧ t.cancelPending = s.cancelPending

/-- The round trip: after an ENCODE that answered OK, a DECODE of the stream it stored gives the same samples, count
and rate, in whatever state it runs where the read succeeds and the samples fit a region not being played
(40_wav_codec.md section 3; streams below `2^32` bytes, U7). The spec derives it (R102). -/
def Obligations.DecodeOfEncodeIsTheBuffer : Prop :=
  ∀ (pathId base len sampleRate dst : Word) (s t u : State),
    exec (.encode pathId base len sampleRate) s = .next t → t.cmd.tx = s.cmd.tx ++ [.ok] → 44 + len.toNat < 2 ^ 32 →
    cellGet u.storage pathId.toNat = cellGet t.storage pathId.toNat → u.drawReadFails.1 = false →
    dst.toNat + len.toNat ≤ u.cfg.sampleMemBytes → regionBusy u dst.toNat len.toNat = false →
    ∃ v, exec (.decode pathId dst) u = .next v ∧ v.cmd.tx = u.cmd.tx ++ [.decoded len sampleRate] ∧
      ∀ i, i < len.toNat → v.sm.read (dst.toNat + i) = s.sm.read (base.toNat + i)
end

