-- ==== Sys2Proof/Laws/Decode.lean ====
section
/-! SUPPORT. Bytes and words: `u32le` and `le32` undo each other, and what the decoder answers by the first byte. -/

namespace Sys2Proof

@[simp] theorem le32_length (v : Word) : (le32 v).length = 4 := rfl

@[simp] theorem le16_length (v : BitVec 16) : (le16 v).length = 2 := rfl

theorem u32le_of_le32 (v : Word) : u32le (BitVec.ofNat 8 v.toNat) (BitVec.ofNat 8 (v.toNat / 256))
    (BitVec.ofNat 8 (v.toNat / 65536)) (BitVec.ofNat 8 (v.toNat / 16777216)) = v := by
  have h := v.isLt
  apply BitVec.eq_of_toNat_eq
  simp only [u32le, BitVec.toNat_ofNat]
  omega

theorem u16le_of_le16 (v : BitVec 16) : u16le (BitVec.ofNat 8 v.toNat) (BitVec.ofNat 8 (v.toNat / 256)) = v := by
  have h := v.isLt
  apply BitVec.eq_of_toNat_eq
  simp only [u16le, BitVec.toNat_ofNat]
  omega

theorem le32_of_u32le (a b c d : Byte) : le32 (u32le a b c d) = [a, b, c, d] := by
  have ha := a.isLt; have hb := b.isLt; have hc := c.isLt; have hd := d.isLt
  simp only [le32, u32le, BitVec.toNat_ofNat, List.cons.injEq, and_true]
  refine ⟨?_, ?_, ?_, ?_⟩ <;> apply BitVec.eq_of_toNat_eq <;> simp only [BitVec.toNat_ofNat] <;> omega

/-- The field that stands in a sequence as `le32 v` reads as `v`. -/
theorem field32_append (pre post : List Byte) (v : Word) (off : Nat) (h : pre.length = off) :
    field32 (pre ++ le32 v ++ post) off = v := by
  subst h
  have := u32le_of_le32 v
  simpa [field32, byteAt, le32] using this

/-- The field that stands in a sequence as `le16 v` reads as `v`. -/
theorem field16_append (pre post : List Byte) (v : BitVec 16) (off : Nat) (h : pre.length = off) :
    field16 (pre ++ le16 v ++ post) off = v := by
  subst h
  have := u16le_of_le16 v
  simpa [field16, byteAt, le16] using this

@[simp] theorem opcodeOf_opcodeByte (o : Opcode) : opcodeOf (opcodeByte o) = some o := by
  cases o <;> decide

/-- Only an opcode's own byte is its byte. -/
theorem opcodeByte_of_opcodeOf {op : Byte} {o : Opcode} (h : opcodeOf op = some o) : op = opcodeByte o := by
  revert h
  cases o <;> revert op <;> decide

theorem encode_length (i : Instr) : (encode i).length = frameLength i.opcode := by
  cases i <;> simp [encode, operandBytes, Instr.opcode, frameLength]

end Sys2Proof
end

