-- ==== Sys2Proof/Laws/Container.lean ====
section
/-! SUPPORT. The container reader on streams of the grammar of R82: what it reads at each offset, that the chunk scan passes
skipped chunks, and the canonical container of R78 as such a stream. -/

namespace Sys2Proof.Machine

/-- `Take(k)` of bytes that are there (R91). -/
theorem takeAt_append (before mid after : List Byte) {off k : Nat} (h : before.length = off) (hk : mid.length = k) :
    takeAt (before ++ mid ++ after) off k = some mid := by
  subst h hk
  simp [takeAt]

/-- `Take(k)` of bytes that are not all there (R91). -/
theorem takeAt_short {stream : List Byte} {off k : Nat} (h : stream.length < off + k) : takeAt stream off k = none := by
  simp [takeAt, h]

/-- A taken byte sequence is what stands there. -/
theorem takeAt_eq_some {stream b : List Byte} {off k : Nat} (h : takeAt stream off k = some b) :
    off + k ≤ stream.length ∧ b = (stream.drop off).take k := by
  unfold takeAt at h
  split at h
  · exact ⟨by assumption, by injection h with h; exact h.symm⟩
  · cases h

theorem field32_le32 (v : Word) : field32 (le32 v) 0 = v := by
  simpa using field32_append [] [] v 0 rfl

/-- The scan passes one chunk that is not `data` (R94). -/
theorem scanChunks_skip (before tag payload after : List Byte) (rate : Word) (fuel : Nat) (ht : tag.length = 4)
    (hd : tag ≠ tagData) (hp : payload.length < 2 ^ 32) :
    scanChunks (before ++ chunkBytes tag payload ++ after) rate (fuel + 1) before.length =
      scanChunks (before ++ chunkBytes tag payload ++ after) rate fuel
        (before ++ chunkBytes tag payload).length := by
  have h1 : takeAt (before ++ chunkBytes tag payload ++ after) before.length 4 = some tag := by
    simpa [chunkBytes, List.append_assoc] using
      takeAt_append before tag (le32 (BitVec.ofNat 32 payload.length) ++ payload ++ after) rfl ht
  have h2 : takeAt (before ++ chunkBytes tag payload ++ after) (before.length + 4) 4 =
      some (le32 (BitVec.ofNat 32 payload.length)) := by
    simpa [chunkBytes, List.append_assoc] using
      takeAt_append (before ++ tag) (le32 (BitVec.ofNat 32 payload.length)) (payload ++ after)
        (by simp [ht]) (by simp)
  have hs : (BitVec.ofNat 32 payload.length).toNat = payload.length := by
    rw [BitVec.toNat_ofNat, Nat.mod_eq_of_lt hp]
  rw [scanChunks, h1]
  simp only [h2, if_neg hd, field32_le32, hs]
  rw [if_neg (by simp [chunkBytes, ht]; omega)]
  congr 1
  simp [chunkBytes, ht]
  omega

/-- The scan passes every skipped chunk, one unit of fuel each (R94). -/
theorem scanChunks_skipped (skipped : List (List Byte × List Byte)) (before after : List Byte) (rate : Word)
    (fuel : Nat) (h : skippable skipped) :
    scanChunks (before ++ (skipped.map fun c => chunkBytes c.1 c.2).flatten ++ after) rate (fuel + skipped.length)
        before.length =
      scanChunks (before ++ (skipped.map fun c => chunkBytes c.1 c.2).flatten ++ after) rate fuel
        (before ++ (skipped.map fun c => chunkBytes c.1 c.2).flatten).length := by
  induction skipped generalizing before with
  | nil => simp
  | cons c rest ih =>
    obtain ⟨h1, h2, h3⟩ := h c (by simp)
    have hr : skippable rest := fun d hd => h d (by simp [hd])
    have e := scanChunks_skip before c.1 c.2 ((rest.map fun c => chunkBytes c.1 c.2).flatten ++ after) rate
      (fuel + rest.length) h1 h2 h3
    have i := ih (before ++ chunkBytes c.1 c.2) hr
    simp only [List.map_cons, List.flatten_cons, List.length_cons, List.append_assoc] at e i ⊢
    rw [← Nat.add_assoc, e, i]

/-- The scan at a whole `data` chunk (R94, R95). -/
theorem scanChunks_data (before samples after : List Byte) (rate : Word) (fuel : Nat) (h : samples.length < 2 ^ 32) :
    scanChunks (before ++ chunkBytes tagData samples ++ after) rate (fuel + 1) before.length =
      .good (before.length + 8) rate (BitVec.ofNat 32 samples.length) := by
  have h1 : takeAt (before ++ chunkBytes tagData samples ++ after) before.length 4 = some tagData := by
    simpa [chunkBytes, List.append_assoc] using
      takeAt_append before tagData (le32 (BitVec.ofNat 32 samples.length) ++ samples ++ after) (k := 4) rfl rfl
  have h2 : takeAt (before ++ chunkBytes tagData samples ++ after) (before.length + 4) 4 =
      some (le32 (BitVec.ofNat 32 samples.length)) := by
    simpa [chunkBytes, List.append_assoc] using
      takeAt_append (before ++ tagData) (le32 (BitVec.ofNat 32 samples.length)) (samples ++ after)
        (by simp [tagData]) (by simp)
  have hs : (BitVec.ofNat 32 samples.length).toNat = samples.length := by
    rw [BitVec.toNat_ofNat, Nat.mod_eq_of_lt h]
  rw [scanChunks, h1]
  simp only [h2, if_true, field32_le32, hs]
  rw [if_neg (by simp [chunkBytes, tagData]; omega)]

/-- A stream of the grammar is read down to its format record (R91, R92, R93). -/
theorem readWav_streamOf (z : Word) (fmt rest : List Byte) (skipped : List (List Byte × List Byte))
    (h16 : 16 ≤ fmt.length) (h : fmt.length < 2 ^ 32) :
    readWav (streamOf z fmt skipped rest) = readFormat (streamOf z fmt skipped rest) fmt (20 + fmt.length) := by
  generalize hs : streamOf z fmt skipped rest = stream
  have hn : (BitVec.ofNat 32 fmt.length).toNat = fmt.length := by
    rw [BitVec.toNat_ofNat, Nat.mod_eq_of_lt h]
  have t0 : takeAt stream 0 4 = some tagRiff := by
    rw [← hs]; simp only [streamOf, chunkBytes, List.append_assoc]
    exact takeAt_append [] tagRiff _ rfl rfl
  have t4 : takeAt stream 4 4 = some (le32 z) := by
    rw [← hs]; simp only [streamOf, chunkBytes, List.append_assoc]
    rw [← List.append_assoc]
    exact takeAt_append tagRiff (le32 z) _ rfl rfl
  have t8 : takeAt stream 8 4 = some tagWave := by
    rw [← hs]; simp only [streamOf, chunkBytes, List.append_assoc]
    rw [← List.append_assoc, ← List.append_assoc]
    exact takeAt_append (tagRiff ++ le32 z) tagWave _ rfl rfl
  have t12 : takeAt stream 12 4 = some tagFmt := by
    rw [← hs]; simp only [streamOf, chunkBytes, List.append_assoc]
    rw [← List.append_assoc, ← List.append_assoc, ← List.append_assoc]
    exact takeAt_append (tagRiff ++ le32 z ++ tagWave) tagFmt _ rfl rfl
  have t16 : takeAt stream 16 4 = some (le32 (BitVec.ofNat 32 fmt.length)) := by
    rw [← hs]; simp only [streamOf, chunkBytes, List.append_assoc]
    rw [← List.append_assoc, ← List.append_assoc, ← List.append_assoc, ← List.append_assoc]
    exact takeAt_append (tagRiff ++ le32 z ++ tagWave ++ tagFmt) (le32 (BitVec.ofNat 32 fmt.length)) _ rfl rfl
  have t20 : takeAt stream 20 fmt.length = some fmt := by
    rw [← hs]; simp only [streamOf, chunkBytes, List.append_assoc]
    rw [← List.append_assoc, ← List.append_assoc, ← List.append_assoc, ← List.append_assoc, ← List.append_assoc]
    exact takeAt_append (tagRiff ++ le32 z ++ tagWave ++ tagFmt ++ le32 (BitVec.ofNat 32 fmt.length)) fmt _ rfl rfl
  have hf : ¬ fmt.length < 16 := by omega
  simp only [readWav, t0, t4, t8, t12, ne_eq, not_true_eq_false, if_false, readFmtChunk, t16, field32_le32, hn, t20, hf]

/-- The fields of a format record (R80, R93). -/
theorem formatPayload_fields (format channels : BitVec 16) (rate byteRate : Word) (align bits : BitVec 16)
    (extra : List Byte) :
    field16 (formatPayload format channels rate byteRate align bits extra) 0 = format ∧
    field16 (formatPayload format channels rate byteRate align bits extra) 2 = channels ∧
    field32 (formatPayload format channels rate byteRate align bits extra) 4 = rate ∧
    field16 (formatPayload format channels rate byteRate align bits extra) 14 = bits ∧
    (formatPayload format channels rate byteRate align bits extra).length = 16 + extra.length := by
  unfold formatPayload
  refine ⟨?_, ?_, ?_, ?_, by simp; omega⟩
  · simp only [List.append_assoc]
    exact field16_append [] _ format 0 rfl
  · simp only [List.append_assoc]
    rw [← List.append_assoc]
    simpa [List.append_assoc] using field16_append (le16 format) _ channels 2 rfl
  · simpa [List.append_assoc] using
      field32_append (le16 format ++ le16 channels) (le32 byteRate ++ (le16 align ++ (le16 bits ++ extra))) rate 4 rfl
  · simpa [List.append_assoc] using
      field16_append (le16 format ++ le16 channels ++ le32 rate ++ le32 byteRate ++ le16 align) extra bits 14 rfl

/-- The canonical container is a stream of the grammar with nothing skipped and nothing after the samples (R78, R82). -/
theorem wavContainer_eq (rate : Word) (samples : List Byte) : wavContainer rate samples =
    streamOf (BitVec.ofNat 32 (36 + samples.length)) (formatPayload 1#16 1#16 rate rate 1#16 8#16 []) []
      (chunkBytes tagData samples) := by
  simp [wavContainer, streamOf, chunkBytes, formatPayload]

end Sys2Proof.Machine
end

