-- ==== Sys2Proof/Laws/Memory.lean ====
section
/-! SUPPORT. Sparse maps, sample memory and storage: read after write, everything else left alone, canonical form kept. -/

namespace Sys2Proof.Machine

section cells
variable {α : Type}

@[simp] theorem cellGet_cellPut_same (l : List (Nat × α)) (k : Nat) (v : α) : cellGet (cellPut l k v) k = some v := by
  induction l with
  | nil => simp [cellPut, cellGet]
  | cons c t ih =>
    obtain ⟨a, w⟩ := c
    simp only [cellPut]
    split
    · simp [cellGet]
    · split
      · simp [cellGet]
      · have : a ≠ k := by omega
        simp [cellGet, this, ih]

theorem cellGet_cellPut_ne (l : List (Nat × α)) {k j : Nat} (v : α) (h : j ≠ k) :
    cellGet (cellPut l k v) j = cellGet l j := by
  have hk : k ≠ j := Ne.symm h
  induction l with
  | nil => simp [cellPut, cellGet, hk]
  | cons c t ih =>
    obtain ⟨a, w⟩ := c
    simp only [cellPut]
    split
    · simp [cellGet, hk]
    · split
      · subst_vars; simp [cellGet, hk]
      · simp [cellGet, ih]

theorem cellGet_cellDrop (l : List (Nat × α)) (k j : Nat) :
    cellGet (cellDrop l k) j = if j = k then none else cellGet l j := by
  induction l with
  | nil => simp [cellDrop, cellGet]
  | cons c t ih =>
    obtain ⟨a, w⟩ := c
    by_cases ha : a = k
    · subst ha
      have : cellDrop ((a, w) :: t) a = cellDrop t a := by simp [cellDrop]
      rw [this, ih]
      by_cases hj : j = a
      · simp [hj]
      · simp [hj, cellGet, Ne.symm hj]
    · have : cellDrop ((a, w) :: t) k = (a, w) :: cellDrop t k := by simp [cellDrop, ha]
      rw [this]
      simp only [cellGet, ih]
      by_cases hj : a = j
      · subst hj; simp [ha]
      · simp [hj]

theorem mem_cellPut {l : List (Nat × α)} {k : Nat} {v : α} {c : Nat × α} (h : c ∈ cellPut l k v) :
    c = (k, v) ∨ c ∈ l := by
  induction l with
  | nil => simpa [cellPut] using h
  | cons d t ih =>
    obtain ⟨a, w⟩ := d
    simp only [cellPut] at h
    split at h
    · simpa using h
    · split at h
      · rcases List.mem_cons.mp h with h | h <;> simp [h]
      · rcases List.mem_cons.mp h with h | h
        · simp [h]
        · rcases ih h with h | h <;> simp [h]

theorem cellsRise_cons {c : Nat × α} {t : List (Nat × α)} :
    cellsRise (c :: t) ↔ (∀ d ∈ t, c.1 < d.1) ∧ cellsRise t := by
  simp [cellsRise]

theorem cellsRise_cellPut {l : List (Nat × α)} (h : cellsRise l) (k : Nat) (v : α) : cellsRise (cellPut l k v) := by
  induction l with
  | nil => simp [cellPut, cellsRise]
  | cons d t ih =>
    obtain ⟨a, w⟩ := d
    obtain ⟨h1, h2⟩ := cellsRise_cons.mp h
    simp only [cellPut]
    split
    · rename_i hka
      refine cellsRise_cons.mpr ⟨fun d hd => ?_, h⟩
      rcases List.mem_cons.mp hd with hd | hd
      · simpa [hd] using hka
      · exact lt_trans hka (h1 d hd)
    · split
      · subst_vars; exact cellsRise_cons.mpr ⟨h1, h2⟩
      · refine cellsRise_cons.mpr ⟨fun d hd => ?_, ih h2⟩
        rcases mem_cellPut hd with hd | hd
        · subst hd; show a < k; omega
        · exact h1 d hd

theorem cellsRise_cellDrop {l : List (Nat × α)} (h : cellsRise l) (k : Nat) : cellsRise (cellDrop l k) :=
  List.Pairwise.sublist (List.Sublist.map _ List.filter_sublist) h

end cells

@[simp] theorem SampleMem.write_epoch (m : SampleMem) (a : Nat) (v : Byte) : (m.write a v).epoch = m.epoch := rfl

@[simp] theorem SampleMem.read_write_same (m : SampleMem) (a : Nat) (v : Byte) : (m.write a v).read a = v := by
  simp [SampleMem.read, SampleMem.write]

theorem SampleMem.read_write_ne (m : SampleMem) {a j : Nat} (v : Byte) (h : j ≠ a) :
    (m.write a v).read j = m.read j := by
  simp [SampleMem.read, SampleMem.write, cellGet_cellPut_ne _ _ h]

theorem SampleMem.write_wf {m : SampleMem} {size a : Nat} (h : m.wf size) (ha : a < size) (v : Byte) :
    (m.write a v).wf size := by
  refine ⟨cellsRise_cellPut h.1 a v, fun c hc => ?_⟩
  rcases mem_cellPut hc with hc | hc
  · simpa [hc] using ha
  · exact h.2 c hc

theorem SampleMem.read_writeList_outside (m : SampleMem) (vs : List Byte) (a j : Nat)
    (h : j < a ∨ a + vs.length ≤ j) : (m.writeList a vs).read j = m.read j := by
  induction vs generalizing m a with
  | nil => rfl
  | cons v rest ih =>
    simp only [List.length_cons] at h
    rw [SampleMem.writeList, ih _ _ (by omega), SampleMem.read_write_ne _ _ (by omega)]

theorem SampleMem.read_writeList_inside (m : SampleMem) (vs : List Byte) (a i : Nat) (h : i < vs.length) :
    (m.writeList a vs).read (a + i) = vs[i] := by
  induction vs generalizing m a i with
  | nil => simp at h
  | cons v rest ih =>
    rw [SampleMem.writeList]
    cases i with
    | zero =>
      rw [SampleMem.read_writeList_outside _ _ _ _ (by omega)]
      simp
    | succ k =>
      have := ih (m.write a v) (a + 1) k (by simpa using h)
      rw [show a + (k + 1) = a + 1 + k by omega, this]
      simp

theorem SampleMem.writeList_wf {m : SampleMem} {size : Nat} (vs : List Byte) (a : Nat) (h : m.wf size)
    (ha : a + vs.length ≤ size) : (m.writeList a vs).wf size := by
  induction vs generalizing m a with
  | nil => exact h
  | cons v rest ih =>
    simp only [List.length_cons] at ha
    exact ih (a + 1) (SampleMem.write_wf h (by omega) v) (by omega)

@[simp] theorem SampleMem.readList_length (m : SampleMem) (a n : Nat) : (m.readList a n).length = n := by
  simp [SampleMem.readList]

theorem SampleMem.readList_get (m : SampleMem) (a n i : Nat) (h : i < (m.readList a n).length) :
    (m.readList a n)[i] = m.read (a + i) := by
  simp [SampleMem.readList]

theorem storageWf_put {l : List (Nat × List Byte)} (h : storageWf l) (id : Word) (stream : List Byte) :
    storageWf (cellPut l id.toNat stream) := by
  refine ⟨cellsRise_cellPut h.1 _ _, fun c hc => ?_⟩
  rcases mem_cellPut hc with hc | hc
  · simpa [hc] using id.isLt
  · exact h.2 c hc

theorem storageWf_drop {l : List (Nat × List Byte)} (h : storageWf l) (k : Nat) : storageWf (cellDrop l k) :=
  ⟨cellsRise_cellDrop h.1 k, fun c hc => h.2 c (List.mem_of_mem_filter hc)⟩

/-- The memories of the machine after reset are in canonical form. -/
theorem reset_memories_wf (p : Params) :
    (State.resetOf p).sm.wf p.sampleMemBytes ∧ storageWf (State.resetOf p).storage :=
  ⟨⟨List.Pairwise.nil, by simp [State.resetOf]⟩, ⟨List.Pairwise.nil, by simp [State.resetOf]⟩⟩

end Sys2Proof.Machine
end

