-- ==== Sys2Proof/Laws/State.lean ====
section
/-! SUPPORT. One lemma per field per update: what each named write of State leaves and what it sets. -/

namespace Sys2Proof.Machine

section setEngine
variable (s : State) (e : Engine)
@[simp] theorem State.setEngine_cfg : (s.setEngine e).cfg = s.cfg := rfl
@[simp] theorem State.setEngine_pbe : (s.setEngine e).pbe = { s.pbe with state := e } := rfl
@[simp] theorem State.setEngine_timer : (s.setEngine e).timer = s.timer := rfl
@[simp] theorem State.setEngine_pwm : (s.setEngine e).pwm = s.pwm := rfl
@[simp] theorem State.setEngine_cap : (s.setEngine e).cap = s.cap := rfl
@[simp] theorem State.setEngine_flt : (s.setEngine e).flt = s.flt := rfl
@[simp] theorem State.setEngine_wvc : (s.setEngine e).wvc = s.wvc := rfl
@[simp] theorem State.setEngine_wd : (s.setEngine e).wd = s.wd := rfl
@[simp] theorem State.setEngine_boot : (s.setEngine e).boot = s.boot := rfl
@[simp] theorem State.setEngine_fg : (s.setEngine e).fg = s.fg := rfl
@[simp] theorem State.setEngine_cancelPending : (s.setEngine e).cancelPending = s.cancelPending := rfl
@[simp] theorem State.setEngine_sm : (s.setEngine e).sm = s.sm := rfl
@[simp] theorem State.setEngine_storage : (s.setEngine e).storage = s.storage := rfl
@[simp] theorem State.setEngine_cmd : (s.setEngine e).cmd = s.cmd := rfl
@[simp] theorem State.setEngine_env : (s.setEngine e).env = s.env := rfl
@[simp] theorem State.setEngine_trace : (s.setEngine e).trace = s.trace := rfl
end setEngine

section setPosition
variable (s : State) (p : Word)
@[simp] theorem State.setPosition_cfg : (s.setPosition p).cfg = s.cfg := rfl
@[simp] theorem State.setPosition_pbe : (s.setPosition p).pbe = { s.pbe with position := p } := rfl
@[simp] theorem State.setPosition_timer : (s.setPosition p).timer = s.timer := rfl
@[simp] theorem State.setPosition_pwm : (s.setPosition p).pwm = s.pwm := rfl
@[simp] theorem State.setPosition_cap : (s.setPosition p).cap = s.cap := rfl
@[simp] theorem State.setPosition_flt : (s.setPosition p).flt = s.flt := rfl
@[simp] theorem State.setPosition_wvc : (s.setPosition p).wvc = s.wvc := rfl
@[simp] theorem State.setPosition_wd : (s.setPosition p).wd = s.wd := rfl
@[simp] theorem State.setPosition_boot : (s.setPosition p).boot = s.boot := rfl
@[simp] theorem State.setPosition_fg : (s.setPosition p).fg = s.fg := rfl
@[simp] theorem State.setPosition_cancelPending : (s.setPosition p).cancelPending = s.cancelPending := rfl
@[simp] theorem State.setPosition_sm : (s.setPosition p).sm = s.sm := rfl
@[simp] theorem State.setPosition_storage : (s.setPosition p).storage = s.storage := rfl
@[simp] theorem State.setPosition_cmd : (s.setPosition p).cmd = s.cmd := rfl
@[simp] theorem State.setPosition_env : (s.setPosition p).env = s.env := rfl
@[simp] theorem State.setPosition_trace : (s.setPosition p).trace = s.trace := rfl
end setPosition

section openCursor
variable (s : State) (b l : Word) (lp : Bool)
@[simp] theorem State.openCursor_cfg : (s.openCursor b l lp).cfg = s.cfg := rfl
@[simp] theorem State.openCursor_pbe : (s.openCursor b l lp).pbe = { s.pbe with bufBase := b, bufLen := l, loop := lp, position := 0#32 } := rfl
@[simp] theorem State.openCursor_timer : (s.openCursor b l lp).timer = s.timer := rfl
@[simp] theorem State.openCursor_pwm : (s.openCursor b l lp).pwm = s.pwm := rfl
@[simp] theorem State.openCursor_cap : (s.openCursor b l lp).cap = s.cap := rfl
@[simp] theorem State.openCursor_flt : (s.openCursor b l lp).flt = s.flt := rfl
@[simp] theorem State.openCursor_wvc : (s.openCursor b l lp).wvc = s.wvc := rfl
@[simp] theorem State.openCursor_wd : (s.openCursor b l lp).wd = s.wd := rfl
@[simp] theorem State.openCursor_boot : (s.openCursor b l lp).boot = s.boot := rfl
@[simp] theorem State.openCursor_fg : (s.openCursor b l lp).fg = s.fg := rfl
@[simp] theorem State.openCursor_cancelPending : (s.openCursor b l lp).cancelPending = s.cancelPending := rfl
@[simp] theorem State.openCursor_sm : (s.openCursor b l lp).sm = s.sm := rfl
@[simp] theorem State.openCursor_storage : (s.openCursor b l lp).storage = s.storage := rfl
@[simp] theorem State.openCursor_cmd : (s.openCursor b l lp).cmd = s.cmd := rfl
@[simp] theorem State.openCursor_env : (s.openCursor b l lp).env = s.env := rfl
@[simp] theorem State.openCursor_trace : (s.openCursor b l lp).trace = s.trace := rfl
end openCursor

section ackTick
variable (s : State)
@[simp] theorem State.ackTick_cfg : (s.ackTick).cfg = s.cfg := rfl
@[simp] theorem State.ackTick_pbe : (s.ackTick).pbe = s.pbe := rfl
@[simp] theorem State.ackTick_timer : (s.ackTick).timer = { s.timer with pending := false } := rfl
@[simp] theorem State.ackTick_pwm : (s.ackTick).pwm = s.pwm := rfl
@[simp] theorem State.ackTick_cap : (s.ackTick).cap = s.cap := rfl
@[simp] theorem State.ackTick_flt : (s.ackTick).flt = s.flt := rfl
@[simp] theorem State.ackTick_wvc : (s.ackTick).wvc = s.wvc := rfl
@[simp] theorem State.ackTick_wd : (s.ackTick).wd = s.wd := rfl
@[simp] theorem State.ackTick_boot : (s.ackTick).boot = s.boot := rfl
@[simp] theorem State.ackTick_fg : (s.ackTick).fg = s.fg := rfl
@[simp] theorem State.ackTick_cancelPending : (s.ackTick).cancelPending = s.cancelPending := rfl
@[simp] theorem State.ackTick_sm : (s.ackTick).sm = s.sm := rfl
@[simp] theorem State.ackTick_storage : (s.ackTick).storage = s.storage := rfl
@[simp] theorem State.ackTick_cmd : (s.ackTick).cmd = s.cmd := rfl
@[simp] theorem State.ackTick_env : (s.ackTick).env = s.env := rfl
@[simp] theorem State.ackTick_trace : (s.ackTick).trace = s.trace := rfl
end ackTick

section ackCancel
variable (s : State)
@[simp] theorem State.ackCancel_cfg : (s.ackCancel).cfg = s.cfg := rfl
@[simp] theorem State.ackCancel_pbe : (s.ackCancel).pbe = s.pbe := rfl
@[simp] theorem State.ackCancel_timer : (s.ackCancel).timer = s.timer := rfl
@[simp] theorem State.ackCancel_pwm : (s.ackCancel).pwm = s.pwm := rfl
@[simp] theorem State.ackCancel_cap : (s.ackCancel).cap = s.cap := rfl
@[simp] theorem State.ackCancel_flt : (s.ackCancel).flt = s.flt := rfl
@[simp] theorem State.ackCancel_wvc : (s.ackCancel).wvc = s.wvc := rfl
@[simp] theorem State.ackCancel_wd : (s.ackCancel).wd = s.wd := rfl
@[simp] theorem State.ackCancel_boot : (s.ackCancel).boot = s.boot := rfl
@[simp] theorem State.ackCancel_fg : (s.ackCancel).fg = s.fg := rfl
@[simp] theorem State.ackCancel_cancelPending : (s.ackCancel).cancelPending = false := rfl
@[simp] theorem State.ackCancel_sm : (s.ackCancel).sm = s.sm := rfl
@[simp] theorem State.ackCancel_storage : (s.ackCancel).storage = s.storage := rfl
@[simp] theorem State.ackCancel_cmd : (s.ackCancel).cmd = s.cmd := rfl
@[simp] theorem State.ackCancel_env : (s.ackCancel).env = s.env := rfl
@[simp] theorem State.ackCancel_trace : (s.ackCancel).trace = s.trace := rfl
end ackCancel

section setFg
variable (s : State) (f : FgOp)
@[simp] theorem State.setFg_cfg : (s.setFg f).cfg = s.cfg := rfl
@[simp] theorem State.setFg_pbe : (s.setFg f).pbe = s.pbe := rfl
@[simp] theorem State.setFg_timer : (s.setFg f).timer = s.timer := rfl
@[simp] theorem State.setFg_pwm : (s.setFg f).pwm = s.pwm := rfl
@[simp] theorem State.setFg_cap : (s.setFg f).cap = s.cap := rfl
@[simp] theorem State.setFg_flt : (s.setFg f).flt = s.flt := rfl
@[simp] theorem State.setFg_wvc : (s.setFg f).wvc = s.wvc := rfl
@[simp] theorem State.setFg_wd : (s.setFg f).wd = s.wd := rfl
@[simp] theorem State.setFg_boot : (s.setFg f).boot = s.boot := rfl
@[simp] theorem State.setFg_fg : (s.setFg f).fg = f := rfl
@[simp] theorem State.setFg_cancelPending : (s.setFg f).cancelPending = s.cancelPending := rfl
@[simp] theorem State.setFg_sm : (s.setFg f).sm = s.sm := rfl
@[simp] theorem State.setFg_storage : (s.setFg f).storage = s.storage := rfl
@[simp] theorem State.setFg_cmd : (s.setFg f).cmd = s.cmd := rfl
@[simp] theorem State.setFg_env : (s.setFg f).env = s.env := rfl
@[simp] theorem State.setFg_trace : (s.setFg f).trace = s.trace := rfl
end setFg

section setCap
variable (s : State) (c : Cap)
@[simp] theorem State.setCap_cfg : (s.setCap c).cfg = s.cfg := rfl
@[simp] theorem State.setCap_pbe : (s.setCap c).pbe = s.pbe := rfl
@[simp] theorem State.setCap_timer : (s.setCap c).timer = s.timer := rfl
@[simp] theorem State.setCap_pwm : (s.setCap c).pwm = s.pwm := rfl
@[simp] theorem State.setCap_cap : (s.setCap c).cap = c := rfl
@[simp] theorem State.setCap_flt : (s.setCap c).flt = s.flt := rfl
@[simp] theorem State.setCap_wvc : (s.setCap c).wvc = s.wvc := rfl
@[simp] theorem State.setCap_wd : (s.setCap c).wd = s.wd := rfl
@[simp] theorem State.setCap_boot : (s.setCap c).boot = s.boot := rfl
@[simp] theorem State.setCap_fg : (s.setCap c).fg = s.fg := rfl
@[simp] theorem State.setCap_cancelPending : (s.setCap c).cancelPending = s.cancelPending := rfl
@[simp] theorem State.setCap_sm : (s.setCap c).sm = s.sm := rfl
@[simp] theorem State.setCap_storage : (s.setCap c).storage = s.storage := rfl
@[simp] theorem State.setCap_cmd : (s.setCap c).cmd = s.cmd := rfl
@[simp] theorem State.setCap_env : (s.setCap c).env = s.env := rfl
@[simp] theorem State.setCap_trace : (s.setCap c).trace = s.trace := rfl
end setCap

section setFlt
variable (s : State) (y : Rat) (i : Word)
@[simp] theorem State.setFlt_cfg : (s.setFlt y i).cfg = s.cfg := rfl
@[simp] theorem State.setFlt_pbe : (s.setFlt y i).pbe = s.pbe := rfl
@[simp] theorem State.setFlt_timer : (s.setFlt y i).timer = s.timer := rfl
@[simp] theorem State.setFlt_pwm : (s.setFlt y i).pwm = s.pwm := rfl
@[simp] theorem State.setFlt_cap : (s.setFlt y i).cap = s.cap := rfl
@[simp] theorem State.setFlt_flt : (s.setFlt y i).flt = { y := y, index := i } := rfl
@[simp] theorem State.setFlt_wvc : (s.setFlt y i).wvc = s.wvc := rfl
@[simp] theorem State.setFlt_wd : (s.setFlt y i).wd = s.wd := rfl
@[simp] theorem State.setFlt_boot : (s.setFlt y i).boot = s.boot := rfl
@[simp] theorem State.setFlt_fg : (s.setFlt y i).fg = s.fg := rfl
@[simp] theorem State.setFlt_cancelPending : (s.setFlt y i).cancelPending = s.cancelPending := rfl
@[simp] theorem State.setFlt_sm : (s.setFlt y i).sm = s.sm := rfl
@[simp] theorem State.setFlt_storage : (s.setFlt y i).storage = s.storage := rfl
@[simp] theorem State.setFlt_cmd : (s.setFlt y i).cmd = s.cmd := rfl
@[simp] theorem State.setFlt_env : (s.setFlt y i).env = s.env := rfl
@[simp] theorem State.setFlt_trace : (s.setFlt y i).trace = s.trace := rfl
end setFlt

section setOffset
variable (s : State) (o : Nat)
@[simp] theorem State.setOffset_cfg : (s.setOffset o).cfg = s.cfg := rfl
@[simp] theorem State.setOffset_pbe : (s.setOffset o).pbe = s.pbe := rfl
@[simp] theorem State.setOffset_timer : (s.setOffset o).timer = s.timer := rfl
@[simp] theorem State.setOffset_pwm : (s.setOffset o).pwm = s.pwm := rfl
@[simp] theorem State.setOffset_cap : (s.setOffset o).cap = s.cap := rfl
@[simp] theorem State.setOffset_flt : (s.setOffset o).flt = s.flt := rfl
@[simp] theorem State.setOffset_wvc : (s.setOffset o).wvc = { offset := BitVec.ofNat 32 o } := rfl
@[simp] theorem State.setOffset_wd : (s.setOffset o).wd = s.wd := rfl
@[simp] theorem State.setOffset_boot : (s.setOffset o).boot = s.boot := rfl
@[simp] theorem State.setOffset_fg : (s.setOffset o).fg = s.fg := rfl
@[simp] theorem State.setOffset_cancelPending : (s.setOffset o).cancelPending = s.cancelPending := rfl
@[simp] theorem State.setOffset_sm : (s.setOffset o).sm = s.sm := rfl
@[simp] theorem State.setOffset_storage : (s.setOffset o).storage = s.storage := rfl
@[simp] theorem State.setOffset_cmd : (s.setOffset o).cmd = s.cmd := rfl
@[simp] theorem State.setOffset_env : (s.setOffset o).env = s.env := rfl
@[simp] theorem State.setOffset_trace : (s.setOffset o).trace = s.trace := rfl
end setOffset

section setWd
variable (s : State) (r n : Word)
@[simp] theorem State.setWd_cfg : (s.setWd r n).cfg = s.cfg := rfl
@[simp] theorem State.setWd_pbe : (s.setWd r n).pbe = s.pbe := rfl
@[simp] theorem State.setWd_timer : (s.setWd r n).timer = s.timer := rfl
@[simp] theorem State.setWd_pwm : (s.setWd r n).pwm = s.pwm := rfl
@[simp] theorem State.setWd_cap : (s.setWd r n).cap = s.cap := rfl
@[simp] theorem State.setWd_flt : (s.setWd r n).flt = s.flt := rfl
@[simp] theorem State.setWd_wvc : (s.setWd r n).wvc = s.wvc := rfl
@[simp] theorem State.setWd_wd : (s.setWd r n).wd = { sampleRate := r, sampleCount := n } := rfl
@[simp] theorem State.setWd_boot : (s.setWd r n).boot = s.boot := rfl
@[simp] theorem State.setWd_fg : (s.setWd r n).fg = s.fg := rfl
@[simp] theorem State.setWd_cancelPending : (s.setWd r n).cancelPending = s.cancelPending := rfl
@[simp] theorem State.setWd_sm : (s.setWd r n).sm = s.sm := rfl
@[simp] theorem State.setWd_storage : (s.setWd r n).storage = s.storage := rfl
@[simp] theorem State.setWd_cmd : (s.setWd r n).cmd = s.cmd := rfl
@[simp] theorem State.setWd_env : (s.setWd r n).env = s.env := rfl
@[simp] theorem State.setWd_trace : (s.setWd r n).trace = s.trace := rfl
end setWd

section setSm
variable (s : State) (m : SampleMem)
@[simp] theorem State.setSm_cfg : (s.setSm m).cfg = s.cfg := rfl
@[simp] theorem State.setSm_pbe : (s.setSm m).pbe = s.pbe := rfl
@[simp] theorem State.setSm_timer : (s.setSm m).timer = s.timer := rfl
@[simp] theorem State.setSm_pwm : (s.setSm m).pwm = s.pwm := rfl
@[simp] theorem State.setSm_cap : (s.setSm m).cap = s.cap := rfl
@[simp] theorem State.setSm_flt : (s.setSm m).flt = s.flt := rfl
@[simp] theorem State.setSm_wvc : (s.setSm m).wvc = s.wvc := rfl
@[simp] theorem State.setSm_wd : (s.setSm m).wd = s.wd := rfl
@[simp] theorem State.setSm_boot : (s.setSm m).boot = s.boot := rfl
@[simp] theorem State.setSm_fg : (s.setSm m).fg = s.fg := rfl
@[simp] theorem State.setSm_cancelPending : (s.setSm m).cancelPending = s.cancelPending := rfl
@[simp] theorem State.setSm_sm : (s.setSm m).sm = m := rfl
@[simp] theorem State.setSm_storage : (s.setSm m).storage = s.storage := rfl
@[simp] theorem State.setSm_cmd : (s.setSm m).cmd = s.cmd := rfl
@[simp] theorem State.setSm_env : (s.setSm m).env = s.env := rfl
@[simp] theorem State.setSm_trace : (s.setSm m).trace = s.trace := rfl
end setSm

section setStorage
variable (s : State) (l : List (Nat × List Byte))
@[simp] theorem State.setStorage_cfg : (s.setStorage l).cfg = s.cfg := rfl
@[simp] theorem State.setStorage_pbe : (s.setStorage l).pbe = s.pbe := rfl
@[simp] theorem State.setStorage_timer : (s.setStorage l).timer = s.timer := rfl
@[simp] theorem State.setStorage_pwm : (s.setStorage l).pwm = s.pwm := rfl
@[simp] theorem State.setStorage_cap : (s.setStorage l).cap = s.cap := rfl
@[simp] theorem State.setStorage_flt : (s.setStorage l).flt = s.flt := rfl
@[simp] theorem State.setStorage_wvc : (s.setStorage l).wvc = s.wvc := rfl
@[simp] theorem State.setStorage_wd : (s.setStorage l).wd = s.wd := rfl
@[simp] theorem State.setStorage_boot : (s.setStorage l).boot = s.boot := rfl
@[simp] theorem State.setStorage_fg : (s.setStorage l).fg = s.fg := rfl
@[simp] theorem State.setStorage_cancelPending : (s.setStorage l).cancelPending = s.cancelPending := rfl
@[simp] theorem State.setStorage_sm : (s.setStorage l).sm = s.sm := rfl
@[simp] theorem State.setStorage_storage : (s.setStorage l).storage = l := rfl
@[simp] theorem State.setStorage_cmd : (s.setStorage l).cmd = s.cmd := rfl
@[simp] theorem State.setStorage_env : (s.setStorage l).env = s.env := rfl
@[simp] theorem State.setStorage_trace : (s.setStorage l).trace = s.trace := rfl
end setStorage

section setRx
variable (s : State) (bs : List Byte)
@[simp] theorem State.setRx_cfg : (s.setRx bs).cfg = s.cfg := rfl
@[simp] theorem State.setRx_pbe : (s.setRx bs).pbe = s.pbe := rfl
@[simp] theorem State.setRx_timer : (s.setRx bs).timer = s.timer := rfl
@[simp] theorem State.setRx_pwm : (s.setRx bs).pwm = s.pwm := rfl
@[simp] theorem State.setRx_cap : (s.setRx bs).cap = s.cap := rfl
@[simp] theorem State.setRx_flt : (s.setRx bs).flt = s.flt := rfl
@[simp] theorem State.setRx_wvc : (s.setRx bs).wvc = s.wvc := rfl
@[simp] theorem State.setRx_wd : (s.setRx bs).wd = s.wd := rfl
@[simp] theorem State.setRx_boot : (s.setRx bs).boot = s.boot := rfl
@[simp] theorem State.setRx_fg : (s.setRx bs).fg = s.fg := rfl
@[simp] theorem State.setRx_cancelPending : (s.setRx bs).cancelPending = s.cancelPending := rfl
@[simp] theorem State.setRx_sm : (s.setRx bs).sm = s.sm := rfl
@[simp] theorem State.setRx_storage : (s.setRx bs).storage = s.storage := rfl
@[simp] theorem State.setRx_cmd : (s.setRx bs).cmd = { s.cmd with rx := bs } := rfl
@[simp] theorem State.setRx_env : (s.setRx bs).env = s.env := rfl
@[simp] theorem State.setRx_trace : (s.setRx bs).trace = s.trace := rfl
end setRx

section respond
variable (s : State) (r : Response)
@[simp] theorem State.respond_cfg : (s.respond r).cfg = s.cfg := rfl
@[simp] theorem State.respond_pbe : (s.respond r).pbe = s.pbe := rfl
@[simp] theorem State.respond_timer : (s.respond r).timer = s.timer := rfl
@[simp] theorem State.respond_pwm : (s.respond r).pwm = s.pwm := rfl
@[simp] theorem State.respond_cap : (s.respond r).cap = s.cap := rfl
@[simp] theorem State.respond_flt : (s.respond r).flt = s.flt := rfl
@[simp] theorem State.respond_wvc : (s.respond r).wvc = s.wvc := rfl
@[simp] theorem State.respond_wd : (s.respond r).wd = s.wd := rfl
@[simp] theorem State.respond_boot : (s.respond r).boot = s.boot := rfl
@[simp] theorem State.respond_fg : (s.respond r).fg = s.fg := rfl
@[simp] theorem State.respond_cancelPending : (s.respond r).cancelPending = s.cancelPending := rfl
@[simp] theorem State.respond_sm : (s.respond r).sm = s.sm := rfl
@[simp] theorem State.respond_storage : (s.respond r).storage = s.storage := rfl
@[simp] theorem State.respond_cmd : (s.respond r).cmd = { s.cmd with tx := s.cmd.tx ++ [r] } := rfl
@[simp] theorem State.respond_env : (s.respond r).env = s.env := rfl
@[simp] theorem State.respond_trace : (s.respond r).trace = s.trace := rfl
end respond

section note
variable (s : State) (a : Access) (ok : Bool)
@[simp] theorem State.note_cfg : (s.note a ok).cfg = s.cfg := rfl
@[simp] theorem State.note_pbe : (s.note a ok).pbe = s.pbe := rfl
@[simp] theorem State.note_timer : (s.note a ok).timer = s.timer := rfl
@[simp] theorem State.note_pwm : (s.note a ok).pwm = s.pwm := rfl
@[simp] theorem State.note_cap : (s.note a ok).cap = s.cap := rfl
@[simp] theorem State.note_flt : (s.note a ok).flt = s.flt := rfl
@[simp] theorem State.note_wvc : (s.note a ok).wvc = s.wvc := rfl
@[simp] theorem State.note_wd : (s.note a ok).wd = s.wd := rfl
@[simp] theorem State.note_boot : (s.note a ok).boot = s.boot := rfl
@[simp] theorem State.note_fg : (s.note a ok).fg = s.fg := rfl
@[simp] theorem State.note_cancelPending : (s.note a ok).cancelPending = s.cancelPending := rfl
@[simp] theorem State.note_sm : (s.note a ok).sm = s.sm := rfl
@[simp] theorem State.note_storage : (s.note a ok).storage = s.storage := rfl
@[simp] theorem State.note_cmd : (s.note a ok).cmd = s.cmd := rfl
@[simp] theorem State.note_env : (s.note a ok).env = s.env := rfl
@[simp] theorem State.note_trace : (s.note a ok).trace = { access := a, ok := ok } :: s.trace := rfl
end note

section drawFault
variable (s : State)
@[simp] theorem State.drawFault_cfg : (s.drawFault).2.cfg = s.cfg := rfl
@[simp] theorem State.drawFault_pbe : (s.drawFault).2.pbe = s.pbe := rfl
@[simp] theorem State.drawFault_timer : (s.drawFault).2.timer = s.timer := rfl
@[simp] theorem State.drawFault_pwm : (s.drawFault).2.pwm = s.pwm := rfl
@[simp] theorem State.drawFault_cap : (s.drawFault).2.cap = s.cap := rfl
@[simp] theorem State.drawFault_flt : (s.drawFault).2.flt = s.flt := rfl
@[simp] theorem State.drawFault_wvc : (s.drawFault).2.wvc = s.wvc := rfl
@[simp] theorem State.drawFault_wd : (s.drawFault).2.wd = s.wd := rfl
@[simp] theorem State.drawFault_boot : (s.drawFault).2.boot = s.boot := rfl
@[simp] theorem State.drawFault_fg : (s.drawFault).2.fg = s.fg := rfl
@[simp] theorem State.drawFault_cancelPending : (s.drawFault).2.cancelPending = s.cancelPending := rfl
@[simp] theorem State.drawFault_sm : (s.drawFault).2.sm = s.sm := rfl
@[simp] theorem State.drawFault_storage : (s.drawFault).2.storage = s.storage := rfl
@[simp] theorem State.drawFault_cmd : (s.drawFault).2.cmd = s.cmd := rfl
@[simp] theorem State.drawFault_trace : (s.drawFault).2.trace = s.trace := rfl
end drawFault

section drawReadFails
variable (s : State)
@[simp] theorem State.drawReadFails_cfg : (s.drawReadFails).2.cfg = s.cfg := rfl
@[simp] theorem State.drawReadFails_pbe : (s.drawReadFails).2.pbe = s.pbe := rfl
@[simp] theorem State.drawReadFails_timer : (s.drawReadFails).2.timer = s.timer := rfl
@[simp] theorem State.drawReadFails_pwm : (s.drawReadFails).2.pwm = s.pwm := rfl
@[simp] theorem State.drawReadFails_cap : (s.drawReadFails).2.cap = s.cap := rfl
@[simp] theorem State.drawReadFails_flt : (s.drawReadFails).2.flt = s.flt := rfl
@[simp] theorem State.drawReadFails_wvc : (s.drawReadFails).2.wvc = s.wvc := rfl
@[simp] theorem State.drawReadFails_wd : (s.drawReadFails).2.wd = s.wd := rfl
@[simp] theorem State.drawReadFails_boot : (s.drawReadFails).2.boot = s.boot := rfl
@[simp] theorem State.drawReadFails_fg : (s.drawReadFails).2.fg = s.fg := rfl
@[simp] theorem State.drawReadFails_cancelPending : (s.drawReadFails).2.cancelPending = s.cancelPending := rfl
@[simp] theorem State.drawReadFails_sm : (s.drawReadFails).2.sm = s.sm := rfl
@[simp] theorem State.drawReadFails_storage : (s.drawReadFails).2.storage = s.storage := rfl
@[simp] theorem State.drawReadFails_cmd : (s.drawReadFails).2.cmd = s.cmd := rfl
@[simp] theorem State.drawReadFails_trace : (s.drawReadFails).2.trace = s.trace := rfl
end drawReadFails

section drawStoreResult
variable (s : State)
@[simp] theorem State.drawStoreResult_cfg : (s.drawStoreResult).2.cfg = s.cfg := rfl
@[simp] theorem State.drawStoreResult_pbe : (s.drawStoreResult).2.pbe = s.pbe := rfl
@[simp] theorem State.drawStoreResult_timer : (s.drawStoreResult).2.timer = s.timer := rfl
@[simp] theorem State.drawStoreResult_pwm : (s.drawStoreResult).2.pwm = s.pwm := rfl
@[simp] theorem State.drawStoreResult_cap : (s.drawStoreResult).2.cap = s.cap := rfl
@[simp] theorem State.drawStoreResult_flt : (s.drawStoreResult).2.flt = s.flt := rfl
@[simp] theorem State.drawStoreResult_wvc : (s.drawStoreResult).2.wvc = s.wvc := rfl
@[simp] theorem State.drawStoreResult_wd : (s.drawStoreResult).2.wd = s.wd := rfl
@[simp] theorem State.drawStoreResult_boot : (s.drawStoreResult).2.boot = s.boot := rfl
@[simp] theorem State.drawStoreResult_fg : (s.drawStoreResult).2.fg = s.fg := rfl
@[simp] theorem State.drawStoreResult_cancelPending : (s.drawStoreResult).2.cancelPending = s.cancelPending := rfl
@[simp] theorem State.drawStoreResult_sm : (s.drawStoreResult).2.sm = s.sm := rfl
@[simp] theorem State.drawStoreResult_storage : (s.drawStoreResult).2.storage = s.storage := rfl
@[simp] theorem State.drawStoreResult_cmd : (s.drawStoreResult).2.cmd = s.cmd := rfl
@[simp] theorem State.drawStoreResult_trace : (s.drawStoreResult).2.trace = s.trace := rfl
end drawStoreResult

section readTick
variable (s : State)
@[simp] theorem State.readTick_cfg : (s.readTick).2.cfg = s.cfg := rfl
@[simp] theorem State.readTick_pbe : (s.readTick).2.pbe = s.pbe := rfl
@[simp] theorem State.readTick_timer : (s.readTick).2.timer = s.timer := rfl
@[simp] theorem State.readTick_pwm : (s.readTick).2.pwm = s.pwm := rfl
@[simp] theorem State.readTick_cap : (s.readTick).2.cap = s.cap := rfl
@[simp] theorem State.readTick_flt : (s.readTick).2.flt = s.flt := rfl
@[simp] theorem State.readTick_wvc : (s.readTick).2.wvc = s.wvc := rfl
@[simp] theorem State.readTick_wd : (s.readTick).2.wd = s.wd := rfl
@[simp] theorem State.readTick_boot : (s.readTick).2.boot = s.boot := rfl
@[simp] theorem State.readTick_fg : (s.readTick).2.fg = s.fg := rfl
@[simp] theorem State.readTick_cancelPending : (s.readTick).2.cancelPending = s.cancelPending := rfl
@[simp] theorem State.readTick_sm : (s.readTick).2.sm = s.sm := rfl
@[simp] theorem State.readTick_storage : (s.readTick).2.storage = s.storage := rfl
@[simp] theorem State.readTick_cmd : (s.readTick).2.cmd = s.cmd := rfl
@[simp] theorem State.readTick_trace : (s.readTick).2.trace = { access := .readTick (s.readTick).1, ok := true } :: s.trace := rfl
end readTick

section readAdc
variable (s : State)
@[simp] theorem State.readAdc_cfg : (s.readAdc).2.cfg = s.cfg := rfl
@[simp] theorem State.readAdc_pbe : (s.readAdc).2.pbe = s.pbe := rfl
@[simp] theorem State.readAdc_timer : (s.readAdc).2.timer = s.timer := rfl
@[simp] theorem State.readAdc_pwm : (s.readAdc).2.pwm = s.pwm := rfl
@[simp] theorem State.readAdc_cap : (s.readAdc).2.cap = s.cap := rfl
@[simp] theorem State.readAdc_flt : (s.readAdc).2.flt = s.flt := rfl
@[simp] theorem State.readAdc_wvc : (s.readAdc).2.wvc = s.wvc := rfl
@[simp] theorem State.readAdc_wd : (s.readAdc).2.wd = s.wd := rfl
@[simp] theorem State.readAdc_boot : (s.readAdc).2.boot = s.boot := rfl
@[simp] theorem State.readAdc_fg : (s.readAdc).2.fg = s.fg := rfl
@[simp] theorem State.readAdc_cancelPending : (s.readAdc).2.cancelPending = s.cancelPending := rfl
@[simp] theorem State.readAdc_sm : (s.readAdc).2.sm = s.sm := rfl
@[simp] theorem State.readAdc_storage : (s.readAdc).2.storage = s.storage := rfl
@[simp] theorem State.readAdc_cmd : (s.readAdc).2.cmd = s.cmd := rfl
@[simp] theorem State.readAdc_trace : (s.readAdc).2.trace = { access := .readAdc (s.readAdc).1, ok := true } :: s.trace := rfl
end readAdc

section applyWrite
variable (s : State) (w : PortWrite)
@[simp] theorem State.applyWrite_cfg : (s.applyWrite w).cfg = s.cfg := by cases w <;> rfl
@[simp] theorem State.applyWrite_pbe : (s.applyWrite w).pbe = s.pbe := by cases w <;> rfl
@[simp] theorem State.applyWrite_cap : (s.applyWrite w).cap = s.cap := by cases w <;> rfl
@[simp] theorem State.applyWrite_flt : (s.applyWrite w).flt = s.flt := by cases w <;> rfl
@[simp] theorem State.applyWrite_wvc : (s.applyWrite w).wvc = s.wvc := by cases w <;> rfl
@[simp] theorem State.applyWrite_wd : (s.applyWrite w).wd = s.wd := by cases w <;> rfl
@[simp] theorem State.applyWrite_boot : (s.applyWrite w).boot = s.boot := by cases w <;> rfl
@[simp] theorem State.applyWrite_fg : (s.applyWrite w).fg = s.fg := by cases w <;> rfl
@[simp] theorem State.applyWrite_cancelPending : (s.applyWrite w).cancelPending = s.cancelPending := by cases w <;> rfl
@[simp] theorem State.applyWrite_sm : (s.applyWrite w).sm = s.sm := by cases w <;> rfl
@[simp] theorem State.applyWrite_storage : (s.applyWrite w).storage = s.storage := by cases w <;> rfl
@[simp] theorem State.applyWrite_cmd : (s.applyWrite w).cmd = s.cmd := by cases w <;> rfl
@[simp] theorem State.applyWrite_env : (s.applyWrite w).env = s.env := by cases w <;> rfl
@[simp] theorem State.applyWrite_trace : (s.applyWrite w).trace = s.trace := by cases w <;> rfl
@[simp] theorem State.applyWrite_pending : (s.applyWrite w).timer.pending = s.timer.pending := by cases w <;> rfl
end applyWrite
@[simp] theorem State.applyWrite_freq_timer (s : State) (hz : Word) : (s.applyWrite (.freq hz)).timer = s.timer := rfl
@[simp] theorem State.applyWrite_freq_pwm (s : State) (hz : Word) : (s.applyWrite (.freq hz)).pwm = { s.pwm with freq := hz } := rfl
@[simp] theorem State.applyWrite_duty_timer (s : State) (v : Nat) : (s.applyWrite (.duty v)).timer = s.timer := rfl
@[simp] theorem State.applyWrite_duty_pwm (s : State) (v : Nat) : (s.applyWrite (.duty v)).pwm = { s.pwm with duty := v } := rfl
@[simp] theorem State.applyWrite_arm_timer (s : State) (r : Word) : (s.applyWrite (.arm r)).timer = { s.timer with armed := true, rate := r } := rfl
@[simp] theorem State.applyWrite_arm_pwm (s : State) (r : Word) : (s.applyWrite (.arm r)).pwm = s.pwm := rfl
@[simp] theorem State.applyWrite_disarm_timer (s : State) : (s.applyWrite (.disarm)).timer = { s.timer with armed := false } := rfl
@[simp] theorem State.applyWrite_disarm_pwm (s : State) : (s.applyWrite (.disarm)).pwm = s.pwm := rfl

section holdRequest
variable (s : State) (due : Bool)
@[simp] theorem State.holdRequest_cfg : (s.holdRequest due).cfg = s.cfg := rfl
@[simp] theorem State.holdRequest_pbe : (s.holdRequest due).pbe = s.pbe := rfl
@[simp] theorem State.holdRequest_timer :
    (s.holdRequest due).timer = { s.timer with pending := s.timer.pending || due } := rfl
@[simp] theorem State.holdRequest_pwm : (s.holdRequest due).pwm = s.pwm := rfl
@[simp] theorem State.holdRequest_cap : (s.holdRequest due).cap = s.cap := rfl
@[simp] theorem State.holdRequest_flt : (s.holdRequest due).flt = s.flt := rfl
@[simp] theorem State.holdRequest_wvc : (s.holdRequest due).wvc = s.wvc := rfl
@[simp] theorem State.holdRequest_wd : (s.holdRequest due).wd = s.wd := rfl
@[simp] theorem State.holdRequest_boot : (s.holdRequest due).boot = s.boot := rfl
@[simp] theorem State.holdRequest_fg : (s.holdRequest due).fg = s.fg := rfl
@[simp] theorem State.holdRequest_cancelPending : (s.holdRequest due).cancelPending = s.cancelPending := rfl
@[simp] theorem State.holdRequest_sm : (s.holdRequest due).sm = s.sm := rfl
@[simp] theorem State.holdRequest_storage : (s.holdRequest due).storage = s.storage := rfl
@[simp] theorem State.holdRequest_cmd : (s.holdRequest due).cmd = s.cmd := rfl
@[simp] theorem State.holdRequest_env : (s.holdRequest due).env = s.env := rfl
@[simp] theorem State.holdRequest_trace : (s.holdRequest due).trace = s.trace := rfl
end holdRequest

section absorb
variable (s : State) (a : Arrivals)
@[simp] theorem State.absorb_cfg : (s.absorb a).cfg = s.cfg := rfl
@[simp] theorem State.absorb_pbe : (s.absorb a).pbe = s.pbe := rfl
@[simp] theorem State.absorb_timer :
    (s.absorb a).timer = { s.timer with pending := s.timer.pending || (a.period && s.timer.armed) } := rfl
@[simp] theorem State.absorb_pwm : (s.absorb a).pwm = s.pwm := rfl
@[simp] theorem State.absorb_cap : (s.absorb a).cap = s.cap := rfl
@[simp] theorem State.absorb_flt : (s.absorb a).flt = s.flt := rfl
@[simp] theorem State.absorb_wvc : (s.absorb a).wvc = s.wvc := rfl
@[simp] theorem State.absorb_wd : (s.absorb a).wd = s.wd := rfl
@[simp] theorem State.absorb_boot : (s.absorb a).boot = { graceDone := s.boot.graceDone || a.grace } := rfl
@[simp] theorem State.absorb_fg : (s.absorb a).fg = s.fg := rfl
@[simp] theorem State.absorb_cancelPending : (s.absorb a).cancelPending = (s.cancelPending || a.cancel) := rfl
@[simp] theorem State.absorb_sm : (s.absorb a).sm = s.sm := rfl
@[simp] theorem State.absorb_storage : (s.absorb a).storage = s.storage := rfl
@[simp] theorem State.absorb_cmd : (s.absorb a).cmd = { s.cmd with rx := s.cmd.rx ++ a.bytes } := rfl
@[simp] theorem State.absorb_env : (s.absorb a).env = s.env := rfl
@[simp] theorem State.absorb_trace : (s.absorb a).trace = s.trace := rfl
end absorb

end Sys2Proof.Machine
end

