-- ==== Sys2Proof/Laws/Ops.lean ====
section
/-! SUPPORT. What each shared operation can do, said once: the cases of a port write, of a `try`, of the defensive shutdown,
of the fault entry and of the teardown, and what each leaves alone. -/

namespace Sys2Proof.Machine

/-! The oracle. -/

theorem State.nextOk_succ (s : State) (n : Nat) :
    s.nextOk (n + 1) ↔ s.drawFault.1 = false ∧ s.drawFault.2.nextOk n := by
  simp [State.nextOk, State.faultsAhead, List.replicate_succ]

@[simp] theorem State.nextOk_zero (s : State) : s.nextOk 0 := rfl

/-- The oracle's answers depend on the inputs alone. -/
theorem State.faultsAhead_congr {s t : State} (h : s.env = t.env) (n : Nat) : s.faultsAhead n = t.faultsAhead n := by
  induction n generalizing s t with
  | zero => rfl
  | succ n ih =>
    have h1 : s.drawFault.1 = t.drawFault.1 := by simp [State.drawFault, h]
    have h2 : s.drawFault.2.env = t.drawFault.2.env := by simp [State.drawFault, h]
    simp [State.faultsAhead, h1, ih h2]

theorem State.drawFault_congr {s t : State} (h : s.env = t.env) : s.drawFault.1 = t.drawFault.1 := by
  simp [State.drawFault, h]

/-- The inputs after some answers depend on the inputs before them alone. -/
theorem State.drawn_env_congr {s t : State} (h : s.env = t.env) (n : Nat) : (s.drawn n).env = (t.drawn n).env := by
  induction n generalizing s t with
  | zero => exact h
  | succ n ih => exact ih (by simp [State.drawFault, h])

theorem State.drawn_add (s : State) (m n : Nat) : s.drawn (m + n) = (s.drawn m).drawn n := by
  induction m generalizing s with
  | zero => simp [State.drawn]
  | succ m ih => rw [Nat.succ_add]; exact ih _

theorem State.faultsAhead_add (s : State) (m n : Nat) :
    s.faultsAhead (m + n) = s.faultsAhead m ++ (s.drawn m).faultsAhead n := by
  induction m generalizing s with
  | zero => simp [State.faultsAhead, State.drawn]
  | succ m ih => rw [Nat.succ_add]; simp [State.faultsAhead, State.drawn, ih]

/-! Port writes. -/

theorem State.hwWrite_of_ok {s : State} (w : PortWrite) (h : s.drawFault.1 = false) :
    s.hwWrite w = (true, (s.drawFault.2.note (.write w) true).applyWrite w) := by
  unfold State.hwWrite
  split
  · rename_i heq; simp [heq] at h
  · rename_i heq; simp [heq]

theorem State.hwWrite_of_fail {s : State} (w : PortWrite) (h : s.drawFault.1 = true) :
    s.hwWrite w = (false, s.drawFault.2.note (.write w) false) := by
  unfold State.hwWrite
  split
  · rename_i heq; simp [heq]
  · rename_i heq; simp [heq] at h

/-- A port write succeeds with its effect or fails without one, as the oracle says (R159). -/
theorem State.hwWrite_cases (s : State) (w : PortWrite) :
    (s.drawFault.1 = false ∧ s.hwWrite w = (true, (s.drawFault.2.note (.write w) true).applyWrite w)) ∨
    (s.drawFault.1 = true ∧ s.hwWrite w = (false, s.drawFault.2.note (.write w) false)) := by
  cases h : s.drawFault.1
  · exact .inl ⟨rfl, State.hwWrite_of_ok w h⟩
  · exact .inr ⟨rfl, State.hwWrite_of_fail w h⟩

@[simp] theorem State.hwWrite_fst (s : State) (w : PortWrite) : (s.hwWrite w).1 = !s.drawFault.1 := by
  rcases s.hwWrite_cases w with ⟨h, e⟩ | ⟨h, e⟩ <;> simp [h, e]

@[simp] theorem State.hwWrite_env (s : State) (w : PortWrite) : (s.hwWrite w).2.env = s.drawFault.2.env := by
  rcases s.hwWrite_cases w with ⟨h, e⟩ | ⟨h, e⟩ <;> simp [e]

@[simp] theorem State.hwWrite_trace (s : State) (w : PortWrite) :
    (s.hwWrite w).2.trace = { access := .write w, ok := !s.drawFault.1 } :: s.trace := by
  rcases s.hwWrite_cases w with ⟨h, e⟩ | ⟨h, e⟩ <;> simp [h, e]

@[simp] theorem State.hwWrite_pending (s : State) (w : PortWrite) :
    (s.hwWrite w).2.timer.pending = s.timer.pending := by
  rcases s.hwWrite_cases w with ⟨h, e⟩ | ⟨h, e⟩ <;> simp [e]

theorem State.hwWrite_disarm_timer (s : State) : (s.hwWrite .disarm).2.timer =
    { s.timer with armed := s.drawFault.1 && s.timer.armed } := by
  rcases s.hwWrite_cases .disarm with ⟨h, e⟩ | ⟨h, e⟩ <;> simp [h, e]

theorem State.hwWrite_disarm_pwm (s : State) : (s.hwWrite .disarm).2.pwm = s.pwm := by
  rcases s.hwWrite_cases .disarm with ⟨h, e⟩ | ⟨h, e⟩ <;> simp [e]

theorem State.hwWrite_duty_timer (s : State) (v : Nat) : (s.hwWrite (.duty v)).2.timer = s.timer := by
  rcases s.hwWrite_cases (.duty v) with ⟨h, e⟩ | ⟨h, e⟩ <;> simp [e]

theorem State.hwWrite_duty_pwm (s : State) (v : Nat) : (s.hwWrite (.duty v)).2.pwm =
    { s.pwm with duty := if s.drawFault.1 then s.pwm.duty else v } := by
  rcases s.hwWrite_cases (.duty v) with ⟨h, e⟩ | ⟨h, e⟩ <;> simp [h, e]
@[simp] theorem State.hwWrite_cfg (s : State) (w : PortWrite) : (s.hwWrite w).2.cfg = s.cfg := by
  rcases s.hwWrite_cases w with ⟨h, e⟩ | ⟨h, e⟩ <;> simp [e]
@[simp] theorem State.hwWrite_cap (s : State) (w : PortWrite) : (s.hwWrite w).2.cap = s.cap := by
  rcases s.hwWrite_cases w with ⟨h, e⟩ | ⟨h, e⟩ <;> simp [e]
@[simp] theorem State.hwWrite_flt (s : State) (w : PortWrite) : (s.hwWrite w).2.flt = s.flt := by
  rcases s.hwWrite_cases w with ⟨h, e⟩ | ⟨h, e⟩ <;> simp [e]
@[simp] theorem State.hwWrite_wvc (s : State) (w : PortWrite) : (s.hwWrite w).2.wvc = s.wvc := by
  rcases s.hwWrite_cases w with ⟨h, e⟩ | ⟨h, e⟩ <;> simp [e]
@[simp] theorem State.hwWrite_wd (s : State) (w : PortWrite) : (s.hwWrite w).2.wd = s.wd := by
  rcases s.hwWrite_cases w with ⟨h, e⟩ | ⟨h, e⟩ <;> simp [e]
@[simp] theorem State.hwWrite_boot (s : State) (w : PortWrite) : (s.hwWrite w).2.boot = s.boot := by
  rcases s.hwWrite_cases w with ⟨h, e⟩ | ⟨h, e⟩ <;> simp [e]
@[simp] theorem State.hwWrite_fg (s : State) (w : PortWrite) : (s.hwWrite w).2.fg = s.fg := by
  rcases s.hwWrite_cases w with ⟨h, e⟩ | ⟨h, e⟩ <;> simp [e]
@[simp] theorem State.hwWrite_cancelPending (s : State) (w : PortWrite) : (s.hwWrite w).2.cancelPending = s.cancelPending := by
  rcases s.hwWrite_cases w with ⟨h, e⟩ | ⟨h, e⟩ <;> simp [e]
@[simp] theorem State.hwWrite_sm (s : State) (w : PortWrite) : (s.hwWrite w).2.sm = s.sm := by
  rcases s.hwWrite_cases w with ⟨h, e⟩ | ⟨h, e⟩ <;> simp [e]
@[simp] theorem State.hwWrite_storage (s : State) (w : PortWrite) : (s.hwWrite w).2.storage = s.storage := by
  rcases s.hwWrite_cases w with ⟨h, e⟩ | ⟨h, e⟩ <;> simp [e]
@[simp] theorem State.hwWrite_cmd (s : State) (w : PortWrite) : (s.hwWrite w).2.cmd = s.cmd := by
  rcases s.hwWrite_cases w with ⟨h, e⟩ | ⟨h, e⟩ <;> simp [e]
@[simp] theorem State.hwWrite_pbe (s : State) (w : PortWrite) : (s.hwWrite w).2.pbe = s.pbe := by
  rcases s.hwWrite_cases w with ⟨h, e⟩ | ⟨h, e⟩ <;> simp [e]

/-! A `try` of port writes. -/

/-- A `try` does nothing, or makes its first write and goes on with the rest, or stops at its first write. -/
theorem State.attempt_cons (s : State) (w : PortWrite) (ws : List PortWrite) :
    s.attempt (w :: ws) =
      if s.drawFault.1 then (false, (s.hwWrite w).2) else (s.hwWrite w).2.attempt ws := by
  rw [State.attempt]
  rcases s.hwWrite_cases w with ⟨h, e⟩ | ⟨h, e⟩ <;> simp [h, e]

@[simp] theorem State.attempt_nil (s : State) : s.attempt [] = (true, s) := rfl

@[simp] theorem State.attempt_cfg (s : State) (ws : List PortWrite) : (s.attempt ws).2.cfg = s.cfg := by
  induction ws generalizing s with
  | nil => rfl
  | cons w ws ih => rw [State.attempt_cons]; split <;> simp [ih]

@[simp] theorem State.attempt_cap (s : State) (ws : List PortWrite) : (s.attempt ws).2.cap = s.cap := by
  induction ws generalizing s with
  | nil => rfl
  | cons w ws ih => rw [State.attempt_cons]; split <;> simp [ih]

@[simp] theorem State.attempt_flt (s : State) (ws : List PortWrite) : (s.attempt ws).2.flt = s.flt := by
  induction ws generalizing s with
  | nil => rfl
  | cons w ws ih => rw [State.attempt_cons]; split <;> simp [ih]

@[simp] theorem State.attempt_wvc (s : State) (ws : List PortWrite) : (s.attempt ws).2.wvc = s.wvc := by
  induction ws generalizing s with
  | nil => rfl
  | cons w ws ih => rw [State.attempt_cons]; split <;> simp [ih]

@[simp] theorem State.attempt_wd (s : State) (ws : List PortWrite) : (s.attempt ws).2.wd = s.wd := by
  induction ws generalizing s with
  | nil => rfl
  | cons w ws ih => rw [State.attempt_cons]; split <;> simp [ih]

@[simp] theorem State.attempt_boot (s : State) (ws : List PortWrite) : (s.attempt ws).2.boot = s.boot := by
  induction ws generalizing s with
  | nil => rfl
  | cons w ws ih => rw [State.attempt_cons]; split <;> simp [ih]

@[simp] theorem State.attempt_fg (s : State) (ws : List PortWrite) : (s.attempt ws).2.fg = s.fg := by
  induction ws generalizing s with
  | nil => rfl
  | cons w ws ih => rw [State.attempt_cons]; split <;> simp [ih]

@[simp] theorem State.attempt_cancelPending (s : State) (ws : List PortWrite) : (s.attempt ws).2.cancelPending = s.cancelPending := by
  induction ws generalizing s with
  | nil => rfl
  | cons w ws ih => rw [State.attempt_cons]; split <;> simp [ih]

@[simp] theorem State.attempt_sm (s : State) (ws : List PortWrite) : (s.attempt ws).2.sm = s.sm := by
  induction ws generalizing s with
  | nil => rfl
  | cons w ws ih => rw [State.attempt_cons]; split <;> simp [ih]

@[simp] theorem State.attempt_storage (s : State) (ws : List PortWrite) : (s.attempt ws).2.storage = s.storage := by
  induction ws generalizing s with
  | nil => rfl
  | cons w ws ih => rw [State.attempt_cons]; split <;> simp [ih]

@[simp] theorem State.attempt_cmd (s : State) (ws : List PortWrite) : (s.attempt ws).2.cmd = s.cmd := by
  induction ws generalizing s with
  | nil => rfl
  | cons w ws ih => rw [State.attempt_cons]; split <;> simp [ih]

@[simp] theorem State.attempt_pbe (s : State) (ws : List PortWrite) : (s.attempt ws).2.pbe = s.pbe := by
  induction ws generalizing s with
  | nil => rfl
  | cons w ws ih => rw [State.attempt_cons]; split <;> simp [ih]

@[simp] theorem State.attempt_pending (s : State) (ws : List PortWrite) :
    (s.attempt ws).2.timer.pending = s.timer.pending := by
  induction ws generalizing s with
  | nil => rfl
  | cons w ws ih => rw [State.attempt_cons]; split <;> simp [ih]

/-- A `try` only adds to the history: all its writes, successful, when it succeeds; up to a failed one when it does not. -/
theorem State.attempt_history (s : State) (ws : List PortWrite) :
    ∃ added, (s.attempt ws).2.trace = added ++ s.trace ∧
      ((s.attempt ws).1 = true ↔ ∀ e ∈ added, e.ok = true) ∧ (∀ e ∈ added, ∃ w, e.access = .write w) := by
  induction ws generalizing s with
  | nil => exact ⟨[], by simp⟩
  | cons w ws ih =>
    rw [State.attempt_cons]
    cases h : s.drawFault.1
    · obtain ⟨added, h1, h2, h3⟩ := ih (s.hwWrite w).2
      refine ⟨added ++ [{ access := .write w, ok := true }], ?_, ?_, ?_⟩
      · simp [h1, h]
      · simp [h2, or_imp, forall_and]
      · intro e he
        rcases List.mem_append.mp he with he | he
        · exact h3 e he
        · exact ⟨w, by simp_all⟩
    · exact ⟨[{ access := .write w, ok := false }], by simp [h]⟩

/-! The defensive shutdown. -/

/-- The oracle's answer to the shutdown's disarm. -/
theorem State.defensiveShutdown_eq (s : State) : s.defensiveShutdown =
    ((s.hwWrite .disarm).1, ((s.hwWrite .disarm).2.hwWrite (.duty s.cfg.neutral)).1,
      ((s.hwWrite .disarm).2.hwWrite (.duty s.cfg.neutral)).2) := rfl

theorem State.takeFault_eq (s : State) : s.takeFault = s.defensiveShutdown.2.2.setEngine .faulted := rfl

theorem State.teardown_eq (s : State) : s.teardown =
    if s.defensiveShutdown.1 && s.defensiveShutdown.2.1 then (true, s.defensiveShutdown.2.2.setEngine .stopped)
    else (false, s.defensiveShutdown.2.2.setEngine .faulted) := rfl

/-- Both writes are always attempted, disarm first (R138). -/
theorem State.defensiveShutdown_trace (s : State) : s.defensiveShutdown.2.2.trace =
    { access := .write (.duty s.cfg.neutral), ok := s.defensiveShutdown.2.1 } ::
    { access := .write .disarm, ok := s.defensiveShutdown.1 } :: s.trace := by
  simp [State.defensiveShutdown_eq]

/-- A failed disarm leaves the timer as it was (R159). -/
theorem State.defensiveShutdown_timer (s : State) : s.defensiveShutdown.2.2.timer =
    { s.timer with armed := !s.defensiveShutdown.1 && s.timer.armed } := by
  simp [State.defensiveShutdown_eq, State.hwWrite_duty_timer, State.hwWrite_disarm_timer]

/-- The shutdown draws two answers of the oracle. -/
theorem State.defensiveShutdown_env (s : State) : s.defensiveShutdown.2.2.env = (s.drawn 2).env := by
  simp [State.defensiveShutdown_eq, State.drawn, State.drawFault]

/-- A failed neutral write leaves the duty as it was (R159). -/
theorem State.defensiveShutdown_pwm (s : State) : s.defensiveShutdown.2.2.pwm =
    { s.pwm with duty := if s.defensiveShutdown.2.1 then s.cfg.neutral else s.pwm.duty } := by
  simp only [State.defensiveShutdown_eq, State.hwWrite_duty_pwm, State.hwWrite_disarm_pwm, State.hwWrite_fst]
  cases (s.hwWrite .disarm).2.drawFault.1 <;> rfl
@[simp] theorem State.defensiveShutdown_cfg (s : State) : s.defensiveShutdown.2.2.cfg = s.cfg := by simp [State.defensiveShutdown_eq]
@[simp] theorem State.defensiveShutdown_cap (s : State) : s.defensiveShutdown.2.2.cap = s.cap := by simp [State.defensiveShutdown_eq]
@[simp] theorem State.defensiveShutdown_flt (s : State) : s.defensiveShutdown.2.2.flt = s.flt := by simp [State.defensiveShutdown_eq]
@[simp] theorem State.defensiveShutdown_wvc (s : State) : s.defensiveShutdown.2.2.wvc = s.wvc := by simp [State.defensiveShutdown_eq]
@[simp] theorem State.defensiveShutdown_wd (s : State) : s.defensiveShutdown.2.2.wd = s.wd := by simp [State.defensiveShutdown_eq]
@[simp] theorem State.defensiveShutdown_boot (s : State) : s.defensiveShutdown.2.2.boot = s.boot := by simp [State.defensiveShutdown_eq]
@[simp] theorem State.defensiveShutdown_fg (s : State) : s.defensiveShutdown.2.2.fg = s.fg := by simp [State.defensiveShutdown_eq]
@[simp] theorem State.defensiveShutdown_cancelPending (s : State) : s.defensiveShutdown.2.2.cancelPending = s.cancelPending := by simp [State.defensiveShutdown_eq]
@[simp] theorem State.defensiveShutdown_sm (s : State) : s.defensiveShutdown.2.2.sm = s.sm := by simp [State.defensiveShutdown_eq]
@[simp] theorem State.defensiveShutdown_storage (s : State) : s.defensiveShutdown.2.2.storage = s.storage := by simp [State.defensiveShutdown_eq]
@[simp] theorem State.defensiveShutdown_cmd (s : State) : s.defensiveShutdown.2.2.cmd = s.cmd := by simp [State.defensiveShutdown_eq]
@[simp] theorem State.defensiveShutdown_pbe (s : State) : s.defensiveShutdown.2.2.pbe = s.pbe := by simp [State.defensiveShutdown_eq]

/-! Fault entry and teardown. -/

@[simp] theorem State.takeFault_cfg (s : State) : s.takeFault.cfg = s.cfg := by simp [State.takeFault_eq]
@[simp] theorem State.takeFault_cap (s : State) : s.takeFault.cap = s.cap := by simp [State.takeFault_eq]
@[simp] theorem State.takeFault_flt (s : State) : s.takeFault.flt = s.flt := by simp [State.takeFault_eq]
@[simp] theorem State.takeFault_wvc (s : State) : s.takeFault.wvc = s.wvc := by simp [State.takeFault_eq]
@[simp] theorem State.takeFault_wd (s : State) : s.takeFault.wd = s.wd := by simp [State.takeFault_eq]
@[simp] theorem State.takeFault_boot (s : State) : s.takeFault.boot = s.boot := by simp [State.takeFault_eq]
@[simp] theorem State.takeFault_fg (s : State) : s.takeFault.fg = s.fg := by simp [State.takeFault_eq]
@[simp] theorem State.takeFault_cancelPending (s : State) : s.takeFault.cancelPending = s.cancelPending := by simp [State.takeFault_eq]
@[simp] theorem State.takeFault_sm (s : State) : s.takeFault.sm = s.sm := by simp [State.takeFault_eq]
@[simp] theorem State.takeFault_storage (s : State) : s.takeFault.storage = s.storage := by simp [State.takeFault_eq]
@[simp] theorem State.takeFault_cmd (s : State) : s.takeFault.cmd = s.cmd := by simp [State.takeFault_eq]
@[simp] theorem State.takeFault_pbe (s : State) : s.takeFault.pbe = { s.pbe with state := .faulted } := by
  simp [State.takeFault_eq]
@[simp] theorem State.takeFault_timer (s : State) : s.takeFault.timer = s.defensiveShutdown.2.2.timer := rfl
@[simp] theorem State.takeFault_pwm (s : State) : s.takeFault.pwm = s.defensiveShutdown.2.2.pwm := rfl
@[simp] theorem State.takeFault_env (s : State) : s.takeFault.env = s.defensiveShutdown.2.2.env := rfl
@[simp] theorem State.takeFault_trace (s : State) : s.takeFault.trace = s.defensiveShutdown.2.2.trace := rfl

@[simp] theorem State.teardown_cfg (s : State) : s.teardown.2.cfg = s.cfg := by rw [State.teardown_eq]; split <;> simp
@[simp] theorem State.teardown_cap (s : State) : s.teardown.2.cap = s.cap := by rw [State.teardown_eq]; split <;> simp
@[simp] theorem State.teardown_flt (s : State) : s.teardown.2.flt = s.flt := by rw [State.teardown_eq]; split <;> simp
@[simp] theorem State.teardown_wvc (s : State) : s.teardown.2.wvc = s.wvc := by rw [State.teardown_eq]; split <;> simp
@[simp] theorem State.teardown_wd (s : State) : s.teardown.2.wd = s.wd := by rw [State.teardown_eq]; split <;> simp
@[simp] theorem State.teardown_boot (s : State) : s.teardown.2.boot = s.boot := by rw [State.teardown_eq]; split <;> simp
@[simp] theorem State.teardown_fg (s : State) : s.teardown.2.fg = s.fg := by rw [State.teardown_eq]; split <;> simp
@[simp] theorem State.teardown_cancelPending (s : State) : s.teardown.2.cancelPending = s.cancelPending := by rw [State.teardown_eq]; split <;> simp
@[simp] theorem State.teardown_sm (s : State) : s.teardown.2.sm = s.sm := by rw [State.teardown_eq]; split <;> simp
@[simp] theorem State.teardown_storage (s : State) : s.teardown.2.storage = s.storage := by rw [State.teardown_eq]; split <;> simp
@[simp] theorem State.teardown_cmd (s : State) : s.teardown.2.cmd = s.cmd := by rw [State.teardown_eq]; split <;> simp
@[simp] theorem State.teardown_timer (s : State) : s.teardown.2.timer = s.defensiveShutdown.2.2.timer := by rw [State.teardown_eq]; split <;> rfl
@[simp] theorem State.teardown_pwm (s : State) : s.teardown.2.pwm = s.defensiveShutdown.2.2.pwm := by rw [State.teardown_eq]; split <;> rfl
@[simp] theorem State.teardown_env (s : State) : s.teardown.2.env = s.defensiveShutdown.2.2.env := by rw [State.teardown_eq]; split <;> rfl
@[simp] theorem State.teardown_trace (s : State) : s.teardown.2.trace = s.defensiveShutdown.2.2.trace := by rw [State.teardown_eq]; split <;> rfl
@[simp] theorem State.teardown_fst (s : State) : s.teardown.1 = (s.defensiveShutdown.1 && s.defensiveShutdown.2.1) := by
  rw [State.teardown_eq]; split <;> simp_all
@[simp] theorem State.teardown_pbe (s : State) : s.teardown.2.pbe =
    { s.pbe with state := if s.defensiveShutdown.1 && s.defensiveShutdown.2.1 then .stopped else .faulted } := by
  rw [State.teardown_eq]; split <;> simp_all

/-! Storage. -/

@[simp] theorem State.storageRead_cfg (s : State) (id : Word) : (s.storageRead id).2.cfg = s.cfg := rfl
@[simp] theorem State.storageRead_cap (s : State) (id : Word) : (s.storageRead id).2.cap = s.cap := rfl
@[simp] theorem State.storageRead_flt (s : State) (id : Word) : (s.storageRead id).2.flt = s.flt := rfl
@[simp] theorem State.storageRead_wvc (s : State) (id : Word) : (s.storageRead id).2.wvc = s.wvc := rfl
@[simp] theorem State.storageRead_wd (s : State) (id : Word) : (s.storageRead id).2.wd = s.wd := rfl
@[simp] theorem State.storageRead_boot (s : State) (id : Word) : (s.storageRead id).2.boot = s.boot := rfl
@[simp] theorem State.storageRead_fg (s : State) (id : Word) : (s.storageRead id).2.fg = s.fg := rfl
@[simp] theorem State.storageRead_cancelPending (s : State) (id : Word) : (s.storageRead id).2.cancelPending = s.cancelPending := rfl
@[simp] theorem State.storageRead_sm (s : State) (id : Word) : (s.storageRead id).2.sm = s.sm := rfl
@[simp] theorem State.storageRead_cmd (s : State) (id : Word) : (s.storageRead id).2.cmd = s.cmd := rfl
@[simp] theorem State.storageRead_pbe (s : State) (id : Word) : (s.storageRead id).2.pbe = s.pbe := rfl
@[simp] theorem State.storageRead_timer (s : State) (id : Word) : (s.storageRead id).2.timer = s.timer := rfl
@[simp] theorem State.storageRead_pwm (s : State) (id : Word) : (s.storageRead id).2.pwm = s.pwm := rfl
@[simp] theorem State.storageRead_trace (s : State) (id : Word) : (s.storageRead id).2.trace = s.trace := rfl
@[simp] theorem State.storageRead_storage (s : State) (id : Word) : (s.storageRead id).2.storage = s.storage := rfl
@[simp] theorem State.storageWrite_cfg (s : State) (id : Word) (b : List Byte) : (s.storageWrite id b).2.cfg = s.cfg := rfl
@[simp] theorem State.storageWrite_cap (s : State) (id : Word) (b : List Byte) : (s.storageWrite id b).2.cap = s.cap := rfl
@[simp] theorem State.storageWrite_flt (s : State) (id : Word) (b : List Byte) : (s.storageWrite id b).2.flt = s.flt := rfl
@[simp] theorem State.storageWrite_wvc (s : State) (id : Word) (b : List Byte) : (s.storageWrite id b).2.wvc = s.wvc := rfl
@[simp] theorem State.storageWrite_wd (s : State) (id : Word) (b : List Byte) : (s.storageWrite id b).2.wd = s.wd := rfl
@[simp] theorem State.storageWrite_boot (s : State) (id : Word) (b : List Byte) : (s.storageWrite id b).2.boot = s.boot := rfl
@[simp] theorem State.storageWrite_fg (s : State) (id : Word) (b : List Byte) : (s.storageWrite id b).2.fg = s.fg := rfl
@[simp] theorem State.storageWrite_cancelPending (s : State) (id : Word) (b : List Byte) : (s.storageWrite id b).2.cancelPending = s.cancelPending := rfl
@[simp] theorem State.storageWrite_sm (s : State) (id : Word) (b : List Byte) : (s.storageWrite id b).2.sm = s.sm := rfl
@[simp] theorem State.storageWrite_cmd (s : State) (id : Word) (b : List Byte) : (s.storageWrite id b).2.cmd = s.cmd := rfl
@[simp] theorem State.storageWrite_pbe (s : State) (id : Word) (b : List Byte) : (s.storageWrite id b).2.pbe = s.pbe := rfl
@[simp] theorem State.storageWrite_timer (s : State) (id : Word) (b : List Byte) : (s.storageWrite id b).2.timer = s.timer := rfl
@[simp] theorem State.storageWrite_pwm (s : State) (id : Word) (b : List Byte) : (s.storageWrite id b).2.pwm = s.pwm := rfl
@[simp] theorem State.storageWrite_trace (s : State) (id : Word) (b : List Byte) : (s.storageWrite id b).2.trace = s.trace := rfl

/-- A `StorageWrite` succeeds exactly when the environment stores, and leaves what `storageAfter` says (R49). -/
theorem State.storageWrite_eq (s : State) (id : Word) (b : List Byte) : s.storageWrite id b =
    (s.drawStoreResult.1 == .stored,
      s.drawStoreResult.2.setStorage (storageAfter s.storage id b s.drawStoreResult.1)) := rfl

theorem storageAfter_wf {l : List (Nat × List Byte)} (h : storageWf l) (id : Word) (b : List Byte) (r : StoreResult) :
    storageWf (storageAfter l id b r) := by
  cases r
  · exact storageWf_put h id b
  · exact storageWf_drop h _
  · exact h
  · exact storageWf_put h id _

end Sys2Proof.Machine
end

