-- ==== Sys2Proof/Laws/Data.lean ====
section
/-! SUPPORT. What SMOOTH, DECODE, ENCODE and CAPTURE can do, said once: the cases of each operation, what their loops leave in
sample memory, and that the memories keep their canonical form. -/

namespace Sys2Proof.Machine

/-- What none of the data operations touches: PBE and its devices, the history, the parameters and the rest of the
foreground's state (SMOOTH, DECODE and ENCODE make no port access, R103). -/
structure DataFrame (s t : State) : Prop where
  playback : keepsPlayback s t
  cfg      : t.cfg = s.cfg
  cap      : t.cap = s.cap
  boot     : t.boot = s.boot
  fg       : t.fg = s.fg
  cancel   : t.cancelPending = s.cancelPending

/-! Regions. -/

theorem regionFits_iff {s : State} {base len : Nat} : regionFits s base len = true ↔ base + len ≤ s.cfg.sampleMemBytes := by
  simp [regionFits]

/-- A region that is not busy while Playing holds no address of the playing buffer (R53). -/
theorem regionBusy_false_disjoint {s : State} {base len a : Nat} (h : regionBusy s base len = false)
    (hp : s.pbe.state = .playing) (ha : s.pbe.bufBase.toNat ≤ a) (hb : a < s.pbe.bufBase.toNat + s.pbe.bufLen.toNat) :
    a < base ∨ base + len ≤ a := by
  simp only [regionBusy, hp, beq_self_eq_true, Bool.true_and, regionsOverlap, Bool.and_eq_false_imp,
    Bool.and_eq_true, decide_eq_true_eq, decide_eq_false_iff_not, and_imp] at h
  by_contra hc
  simp only [not_or, not_lt, not_le] at hc
  exact h (by omega) (by omega) (by omega) (by omega)

/-- A shorter region from the same base is busy only where the longer one is (R53). -/
theorem regionBusy_mono {s : State} {base len n : Nat} (h : regionBusy s base len = false) (hn : n ≤ len) :
    regionBusy s base n = false := by
  simp only [regionBusy, regionsOverlap, Bool.and_eq_false_imp, Bool.and_eq_true, decide_eq_true_eq,
    decide_eq_false_iff_not, and_imp] at h ⊢
  intro hp h1 h2 h3
  have := h hp (by omega) h2 h3
  omega

/-! SMOOTH. -/

theorem smoothLoop_epoch (alpha : Rat) (n a : Nat) (y : Rat) (m : SampleMem) :
    (smoothLoop alpha n a y m).2.epoch = m.epoch := by
  induction n generalizing a y m with
  | zero => rfl
  | succ n ih => simp [smoothLoop, ih]

/-- The loop writes nothing outside its region. -/
theorem smoothLoop_read_outside (alpha : Rat) (n a j : Nat) (y : Rat) (m : SampleMem) (h : j < a ∨ a + n ≤ j) :
    (smoothLoop alpha n a y m).2.read j = m.read j := by
  induction n generalizing a y m with
  | zero => rfl
  | succ n ih =>
    rw [smoothLoop, ih _ _ _ (by omega), SampleMem.read_write_ne _ _ (by omega)]

theorem smoothLoop_wf {alpha : Rat} {n a size : Nat} {y : Rat} {m : SampleMem} (h : m.wf size) (ha : a + n ≤ size) :
    (smoothLoop alpha n a y m).2.wf size := by
  induction n generalizing a y m with
  | zero => exact h
  | succ n ih => exact ih (SampleMem.write_wf h (by omega) _) (by omega)

theorem smoothCheck_eq_none {base len alphaQ : Word} {s : State} : smoothCheck base len alphaQ s = none ↔
    alphaAdmitted s.cfg alphaQ = true ∧ base.toNat + len.toNat ≤ s.cfg.sampleMemBytes ∧
      regionBusy s base.toNat len.toNat = false := by
  unfold smoothCheck regionFits
  cases h1 : alphaAdmitted s.cfg alphaQ
  · simp
  · by_cases h2 : base.toNat + len.toNat ≤ s.cfg.sampleMemBytes
    · cases h3 : regionBusy s base.toNat len.toNat <;> simp [h2]
    · simp [h2]

/-- The cases of SMOOTH: refused, an empty buffer, or the loop over the rest of the region (R122, R123). -/
theorem execSmooth_cases (base len alphaQ : Word) (s : State) :
    (∃ r, smoothCheck base len alphaQ s = some r ∧ exec (.smooth base len alphaQ) s = .next (s.respond r)) ∨
    (smoothCheck base len alphaQ s = none ∧ len = 0#32 ∧ exec (.smooth base len alphaQ) s = .next (s.respond .ok)) ∨
    (smoothCheck base len alphaQ s = none ∧ len ≠ 0#32 ∧
      exec (.smooth base len alphaQ) s = .next ((smoothBuffer base len (alphaOf s.cfg alphaQ) s).respond .ok)) := by
  cases h : smoothCheck base len alphaQ s with
  | some r => exact .inl ⟨r, rfl, by simp [exec, execSmooth, h]⟩
  | none =>
    by_cases h0 : len = 0#32
    · exact .inr (.inl ⟨rfl, h0, by simp only [exec, execSmooth, h, if_pos h0]⟩)
    · exact .inr (.inr ⟨rfl, h0, by simp only [exec, execSmooth, h, if_neg h0]⟩)

theorem smoothBuffer_frame (base len : Word) (alpha : Rat) (s : State) :
    DataFrame s (smoothBuffer base len alpha s) ∧ (smoothBuffer base len alpha s).storage = s.storage ∧
    (smoothBuffer base len alpha s).cmd = s.cmd ∧ (smoothBuffer base len alpha s).wd = s.wd ∧
    (smoothBuffer base len alpha s).wvc = s.wvc ∧ (smoothBuffer base len alpha s).env = s.env := by
  refine ⟨⟨⟨rfl, rfl, rfl, rfl⟩, rfl, rfl, rfl, rfl, rfl⟩, rfl, rfl, rfl, rfl, rfl⟩

/-- SMOOTH leaves every byte outside its region as it was. -/
theorem smoothBuffer_read_outside (base len : Word) (alpha : Rat) (s : State) (j : Nat)
    (h : j < base.toNat ∨ base.toNat + len.toNat ≤ j) : (smoothBuffer base len alpha s).sm.read j = s.sm.read j :=
  smoothLoop_read_outside _ _ _ _ _ _ (by omega)

theorem smoothBuffer_wf {base len : Word} {alpha : Rat} {s : State} (h : s.sm.wf s.cfg.sampleMemBytes)
    (hl : len ≠ 0#32) (hf : base.toNat + len.toNat ≤ s.cfg.sampleMemBytes) :
    (smoothBuffer base len alpha s).sm.wf s.cfg.sampleMemBytes := by
  have : len.toNat ≠ 0 := fun e => hl (BitVec.eq_of_toNat_eq (by simpa using e))
  exact smoothLoop_wf h (by omega)

/-! DECODE. -/

theorem decodeCheck_eq_none {dst : Word} {count : Nat} {s : State} : decodeCheck dst count s = none ↔
    dst.toNat + count ≤ s.cfg.sampleMemBytes ∧ regionBusy s dst.toNat count = false := by
  unfold decodeCheck regionFits
  by_cases h2 : dst.toNat + count ≤ s.cfg.sampleMemBytes
  · cases h3 : regionBusy s dst.toNat count <;> simp [h2]
  · simp [h2]

/-- What a `StorageRead` gives: nothing on a failure, for a missing stream, or for one of `2^32` bytes or more. -/
theorem storageRead_fst (s : State) (id : Word) : (s.storageRead id).1 =
    if s.drawReadFails.1 then none else (cellGet s.storage id.toNat).filter fun stream => stream.length < 2 ^ 32 := rfl

/-- The cases of DECODE: no stream; a stream refused, by its reader or by a check; or the samples copied (R91, R97). -/
theorem execDecode_cases (pathId dst : Word) (s : State) :
    ((s.storageRead pathId).1 = none ∧ exec (.decode pathId dst) s = .next (s.drawReadFails.2.respond .ioError)) ∨
    (∃ stream, (s.storageRead pathId).1 = some stream ∧
      ((∃ off e, readWav stream = .bad off e ∧
          exec (.decode pathId dst) s = .next ((s.drawReadFails.2.setOffset off).respond (.formatError e))) ∨
       (∃ off rate count r, readWav stream = .good off rate count ∧ decodeCheck dst count.toNat s = some r ∧
          exec (.decode pathId dst) s = .next ((s.drawReadFails.2.setOffset off).respond r)) ∨
       (∃ off rate count, readWav stream = .good off rate count ∧ decodeCheck dst count.toNat s = none ∧
          exec (.decode pathId dst) s = .next (decodeCopy stream off rate count dst s.drawReadFails.2)))) := by
  cases h : (s.storageRead pathId).1 with
  | none =>
    refine .inl ⟨rfl, ?_⟩
    have e : s.storageRead pathId = (none, s.drawReadFails.2) := Prod.ext h rfl
    simp only [exec, execDecode, e]
  | some stream =>
    have e : s.storageRead pathId = (some stream, s.drawReadFails.2) := Prod.ext h rfl
    refine .inr ⟨stream, rfl, ?_⟩
    cases hr : readWav stream with
    | bad off err => exact .inl ⟨off, err, rfl, by simp only [exec, execDecode, e, decodeStream, hr]⟩
    | good off rate count =>
      have hk : decodeCheck dst count.toNat s.drawReadFails.2 = decodeCheck dst count.toNat s := rfl
      cases hc : decodeCheck dst count.toNat s with
      | some r =>
        exact .inr (.inl ⟨off, rate, count, r, rfl, hc, by simp only [exec, execDecode, e, decodeStream, hr, hk, hc]⟩)
      | none =>
        exact .inr (.inr ⟨off, rate, count, rfl, hc, by simp only [exec, execDecode, e, decodeStream, hr, hk, hc]⟩)

theorem decodeCopy_frame (stream : List Byte) (off : Nat) (rate count dst : Word) (s : State) :
    DataFrame s (decodeCopy stream off rate count dst s) ∧ (decodeCopy stream off rate count dst s).storage = s.storage ∧
    (decodeCopy stream off rate count dst s).flt = s.flt ∧ (decodeCopy stream off rate count dst s).env = s.env :=
  ⟨⟨⟨rfl, rfl, rfl, rfl⟩, rfl, rfl, rfl, rfl, rfl⟩, rfl, rfl, rfl⟩

/-- DECODE leaves every byte outside its destination as it was. -/
theorem decodeCopy_read_outside (stream : List Byte) (off : Nat) (rate count dst : Word) (s : State) (j : Nat)
    (h : j < dst.toNat ∨ dst.toNat + count.toNat ≤ j) :
    (decodeCopy stream off rate count dst s).sm.read j = s.sm.read j := by
  refine SampleMem.read_writeList_outside _ _ _ _ ?_
  have := List.length_take_le count.toNat (stream.drop off)
  omega

theorem decodeCopy_wf {stream : List Byte} {off : Nat} {rate count dst : Word} {s : State}
    (h : s.sm.wf s.cfg.sampleMemBytes) (hf : dst.toNat + count.toNat ≤ s.cfg.sampleMemBytes) :
    (decodeCopy stream off rate count dst s).sm.wf s.cfg.sampleMemBytes := by
  refine SampleMem.writeList_wf _ _ h ?_
  have := List.length_take_le count.toNat (stream.drop off)
  omega

/-! ENCODE. -/

/-- The cases of ENCODE: refused, stored, or a failed write (R98, R99, R101). -/
theorem execEncode_cases (pathId base len sampleRate : Word) (s : State) :
    (s.cfg.sampleMemBytes < base.toNat + len.toNat ∨ 2 ^ 32 - 37 < len.toNat) ∧
      exec (.encode pathId base len sampleRate) s = .next (s.respond .argumentError) ∨
    (base.toNat + len.toNat ≤ s.cfg.sampleMemBytes ∧ len.toNat ≤ 2 ^ 32 - 37) ∧
      ∃ s1, s1 = s.drawStoreResult.2.setStorage (storageAfter s.storage pathId
          (wavContainer sampleRate (s.sm.readList base.toNat len.toNat)) s.drawStoreResult.1) ∧
        exec (.encode pathId base len sampleRate) s =
          .next (if s.drawStoreResult.1 = .stored then (s1.setWd sampleRate len).respond .ok
            else s1.respond .ioError) := by
  by_cases h1 : base.toNat + len.toNat ≤ s.cfg.sampleMemBytes
  · by_cases h2 : 2 ^ 32 - 37 < len.toNat
    · exact .inl ⟨.inr h2, by simp only [exec, execEncode, encodeCheck, regionFits, h1, h2]; simp⟩
    · refine .inr ⟨⟨h1, by omega⟩, _, rfl, ?_⟩
      have hk : encodeCheck base len s = none := by simp [encodeCheck, regionFits, h1]; omega
      simp only [exec, execEncode, hk, encodeStore, State.storageWrite_eq]
      by_cases h3 : s.drawStoreResult.1 = .stored
      · simp [h3]
      · rw [if_neg h3, show (s.drawStoreResult.1 == StoreResult.stored) = false by simpa using h3]
  · exact .inl ⟨.inl (by omega), by simp only [exec, execEncode, encodeCheck, regionFits, h1]; simp⟩

/-! CAPTURE. -/

theorem captureCheck_eq_none {dst sampleRate duration : Word} {s : State} :
    captureCheck dst sampleRate duration s = none ↔
      sampleRate ≠ 0#32 ∧ period s.cfg sampleRate.toNat ≠ 0 ∧ period s.cfg sampleRate.toNat < s.cfg.modulus / 2 ∧
      dst.toNat + captureCount sampleRate duration ≤ s.cfg.sampleMemBytes ∧
      regionBusy s dst.toNat (captureCount sampleRate duration) = false := by
  unfold captureCheck regionFits
  by_cases h1 : sampleRate = 0#32
  · simp [h1]
  by_cases h2 : period s.cfg sampleRate.toNat = 0
  · simp [h1, h2]
  by_cases h3 : s.cfg.modulus / 2 ≤ period s.cfg sampleRate.toNat
  · simp [h1, h2, h3]
  by_cases h4 : dst.toNat + captureCount sampleRate duration ≤ s.cfg.sampleMemBytes
  · cases h5 : regionBusy s dst.toNat (captureCount sampleRate duration) <;> simp [h1, h2, h3, h4, not_le.mp h3]
  · simp [h1, h2, h3, h4]

/-- The cases of CAPTURE's micro-step 0: refused, or set up (R111, R113). -/
theorem execCapture_cases (dst sampleRate duration : Word) (s : State) :
    (∃ r, captureCheck dst sampleRate duration s = some r ∧
      exec (.capture dst sampleRate duration) s = .next (s.respond r)) ∨
    (captureCheck dst sampleRate duration s = none ∧
      exec (.capture dst sampleRate duration) s = .next (captureSetup dst sampleRate duration s)) := by
  cases h : captureCheck dst sampleRate duration s with
  | some r => exact .inl ⟨r, rfl, by simp only [exec, execCapture, h]⟩
  | none => exact .inr ⟨rfl, by simp only [exec, execCapture, h]⟩

/-- CAP's registers after the set-up (R111). -/
def captureOpened (sampleRate duration : Word) (s : State) : Cap where
  nextDeadline := s.readTick.1
  period := period s.cfg sampleRate.toNat
  index := 0#32
  count := countRegister s.env.draws sampleRate duration

/-- The count register where 32 bits hold the product (R15). -/
theorem countRegister_of_lt {draws : Nat} {sampleRate duration : Word} (h : captureCount sampleRate duration < 2 ^ 32) :
    countRegister draws sampleRate duration = BitVec.ofNat 32 (captureCount sampleRate duration) := if_pos h

/-- The register never asks for more slots than the checks looked at. -/
theorem countRegister_le (draws : Nat) (sampleRate duration : Word) :
    (countRegister draws sampleRate duration).toNat ≤ captureCount sampleRate duration := by
  unfold countRegister
  split
  · rw [BitVec.toNat_ofNat]; exact Nat.mod_le _ _
  · have := (Config.freeCount draws).isLt; omega

/-- The state CAPTURE's set-up leaves (R111). -/
theorem captureSetup_eq (dst sampleRate duration : Word) (s : State) : captureSetup dst sampleRate duration s =
    if countRegister s.env.draws sampleRate duration = 0#32 then
      (s.readTick.2.setCap (captureOpened sampleRate duration s)).respond
        (.captured (countRegister s.env.draws sampleRate duration))
    else
      (s.readTick.2.setCap (captureOpened sampleRate duration s)).setFg (.captureWait dst) := rfl

/-- One poll (R111). -/
theorem capturePoll_eq (dst : Word) (s : State) : capturePoll dst s =
    if 0 ≤ tickDiff s.cfg s.readTick.1 s.cap.nextDeadline then s.readTick.2.setFg (.captureTake dst)
    else s.readTick.2 := rfl

/-- One sample: outside sample memory, or stored and the capture gone on with (R111). -/
theorem captureTake_cases (dst : Word) (s : State) :
    (s.cfg.sampleMemBytes ≤ dst.toNat + s.cap.index.toNat ∧ captureTake dst s = .fault .sampleOutsideMemory) ∨
    (dst.toNat + s.cap.index.toNat < s.cfg.sampleMemBytes ∧ ∃ s1, s1 =
        (s.readAdc.2.setSm (s.sm.write (dst.toNat + s.cap.index.toNat) (quantize s.cfg s.readAdc.1))).setCap
          { s.cap with nextDeadline := tickAdd s.cfg s.cap.nextDeadline s.cap.period, index := s.cap.index + 1#32 } ∧
      captureTake dst s = .next (if s.cap.index + 1#32 < s.cap.count then s1.setFg (.captureWait dst)
        else (s1.setFg .idle).respond (.captured s.cap.count))) := by
  by_cases h : s.cfg.sampleMemBytes ≤ dst.toNat + s.cap.index.toNat
  · exact .inl ⟨h, by rw [captureTake, if_pos h]⟩
  · refine .inr ⟨by omega, _, rfl, ?_⟩
    rw [captureTake, if_neg h]
    rfl

/-! The clock. -/

theorem tickAdd_lt (cfg : Params) (t p : Nat) : tickAdd cfg t p < cfg.modulus :=
  Nat.mod_lt _ (Nat.two_pow_pos _)

theorem readTick_lt (s : State) : s.readTick.1 < s.cfg.modulus :=
  Nat.mod_lt _ (Nat.two_pow_pos _)

end Sys2Proof.Machine
end

