-- ==== Sys2Proof/Laws/PerInstr.lean ====
section
/-! SUPPORT. Per instruction: its frame has the length and the opcode byte of R68, R69 and R75. -/

namespace Sys2Proof.Laws.Frame

/-- The instruction's bytes are as many as the table says, and begin with its code. -/
def Statement (i : Instr) : Prop :=
  (encode i).length = frameLength i.opcode ∧ (encode i).head? = some (opcodeByte i.opcode)

theorem start (base len sampleRate : Word) (loop : Byte) : Statement (.start base len sampleRate loop) :=
  ⟨encode_length _, rfl⟩

theorem stop : Statement .stop := ⟨encode_length _, rfl⟩

theorem status : Statement .status := ⟨encode_length _, rfl⟩

theorem capture (dst sampleRate duration : Word) : Statement (.capture dst sampleRate duration) :=
  ⟨encode_length _, rfl⟩

theorem smooth (base len alphaQ : Word) : Statement (.smooth base len alphaQ) := ⟨encode_length _, rfl⟩

theorem decode (pathId dst : Word) : Statement (.decode pathId dst) := ⟨encode_length _, rfl⟩

theorem encode (pathId base len sampleRate : Word) : Statement (.encode pathId base len sampleRate) :=
  ⟨encode_length _, rfl⟩

theorem tick : Statement .tick := ⟨encode_length _, rfl⟩

theorem cancel : Statement .cancel := ⟨encode_length _, rfl⟩

end Sys2Proof.Laws.Frame
end

