-- ==== Sys2Proof/Laws/Playback.lean ====
section
/-! SUPPORT. What START, TICK, STOP and CANCEL can do, said once: the cases of each operation, with the next state of each
written out or described up to the fault entry. -/

namespace Sys2Proof.Machine

/-! A `try` of the machine's two kinds: two writes (TICK's finish), three writes (START). -/

theorem State.attempt_two_ok {s : State} (w1 w2 : PortWrite) (h : s.nextOk 2) :
    s.attempt [w1, w2] = (true, (((((s.drawFault.2.note (.write w1) true).applyWrite w1).drawFault.2).note
      (.write w2) true).applyWrite w2)) := by
  simp only [State.nextOk_succ] at h
  obtain ⟨h1, h2, -⟩ := h
  rw [State.attempt_cons, if_neg (by simp [h1]), State.hwWrite_of_ok _ h1, State.attempt_cons]
  have h2' : ((s.drawFault.2.note (.write w1) true).applyWrite w1).drawFault.1 = false := by
    rw [← h2]; exact State.drawFault_congr (by simp)
  rw [if_neg (by simp [h2']), State.hwWrite_of_ok _ h2', State.attempt_nil]

theorem State.attempt_three_ok {s : State} (w1 w2 w3 : PortWrite) (h : s.nextOk 3) :
    s.attempt [w1, w2, w3] = (true, (((((((s.drawFault.2.note (.write w1) true).applyWrite w1).drawFault.2).note
      (.write w2) true).applyWrite w2).drawFault.2.note (.write w3) true).applyWrite w3)) := by
  rw [State.nextOk_succ] at h
  obtain ⟨h1, h2⟩ := h
  rw [State.attempt_cons, if_neg (by simp [h1]), State.hwWrite_of_ok _ h1]
  refine State.attempt_two_ok w2 w3 ?_
  exact (State.faultsAhead_congr (t := s.drawFault.2) (by simp) 2).trans h2

/-- A `try` fails exactly when one of its answers does. -/
theorem State.attempt_fst (s : State) (ws : List PortWrite) : (s.attempt ws).1 = true ↔ s.nextOk ws.length := by
  induction ws generalizing s with
  | nil => exact ⟨fun _ => rfl, fun _ => rfl⟩
  | cons w ws ih =>
    rw [State.attempt_cons, List.length_cons, State.nextOk_succ]
    cases h : s.drawFault.1
    · simp only [Bool.false_eq_true, if_false, true_and, ih]
      rw [State.nextOk, State.nextOk, State.faultsAhead_congr (State.hwWrite_env s w)]
    · simp

/-! START. -/

theorem startCheck_eq_none {base len sampleRate : Word} {loop : Byte} {s : State} :
    startCheck base len sampleRate loop s = none ↔
      s.pbe.state ≠ .playing ∧ loop.extractLsb' 1 7 = 0#7 ∧ sampleRate ≠ 0#32 ∧
        sampleRate.toNat ≤ s.cfg.timerMaxHz ∧ base.toNat + len.toNat ≤ s.cfg.sampleMemBytes := by
  unfold startCheck loopReservedZero regionFits
  by_cases h1 : s.pbe.state = .playing
  · simp [h1]
  by_cases h2 : loop.extractLsb' 1 7 = 0#7
  · by_cases h3 : sampleRate = 0#32
    · simp [h1, h2, h3]
    · by_cases h4 : s.cfg.timerMaxHz < sampleRate.toNat
      · simp [h1, h2, h3, h4]
      · simp [h1, h2, h3, h4, not_lt.mp h4]
  · simp [h1, h2]

/-- START's `try`, when it fails: nothing has changed but the cursor, the inputs, the history, the carrier and possibly the
duty, and some write failed. -/
structure StartFailed (base len : Word) (loop : Byte) (s u : State) : Prop where
  data     : keepsData s u
  pbe      : u.pbe = { s.pbe with bufBase := base, bufLen := len, loop := loopBit loop, position := 0#32 }
  timer    : u.timer = s.timer
  duty     : u.pwm.duty = s.pwm.duty ∨ u.pwm.duty = s.cfg.neutral
  cmd      : u.cmd = s.cmd
  fg       : u.fg = s.fg
  cancel   : u.cancelPending = s.cancelPending
  history  : ∃ w before, u.trace = { access := .write w, ok := false } :: (before ++ s.trace)

/-- A `try` that fails stops right after a failed write. -/
theorem State.attempt_failed_history (s : State) (ws : List PortWrite) (h : (s.attempt ws).1 = false) :
    ∃ w before, (s.attempt ws).2.trace = { access := .write w, ok := false } :: (before ++ s.trace) := by
  induction ws generalizing s with
  | nil => simp at h
  | cons w ws ih =>
    rw [State.attempt_cons] at h ⊢
    rcases s.hwWrite_cases w with ⟨d, e⟩ | ⟨d, e⟩
    · rw [if_neg (by simp [d])] at h ⊢
      obtain ⟨w', before, hb⟩ := ih _ h
      exact ⟨w', before ++ [okWrite w], by simp [hb, d]⟩
    · rw [if_pos d]
      exact ⟨w, [], by simp [d]⟩

/-- A `try` makes its first write and goes on, or fails at it. -/
theorem State.attempt_cons_cases (s : State) (w : PortWrite) (ws : List PortWrite) :
    (s.drawFault.1 = false ∧
      s.attempt (w :: ws) = ((s.drawFault.2.note (.write w) true).applyWrite w).attempt ws) ∨
    (s.drawFault.1 = true ∧ s.attempt (w :: ws) = (false, s.drawFault.2.note (.write w) false)) := by
  rw [State.attempt_cons]
  rcases s.hwWrite_cases w with ⟨d, e⟩ | ⟨d, e⟩
  · exact .inl ⟨d, by simp [d, e]⟩
  · exact .inr ⟨d, by simp [d, e]⟩

theorem startTry_failed {base len sampleRate : Word} {loop : Byte} {s : State}
    (h : ((s.openCursor base len (loopBit loop)).attempt
      [.freq s.cfg.carrierHz, .duty s.cfg.neutral, .arm sampleRate]).1 = false) :
    StartFailed base len loop s ((s.openCursor base len (loopBit loop)).attempt
      [.freq s.cfg.carrierHz, .duty s.cfg.neutral, .arm sampleRate]).2 := by
  have hh := State.attempt_failed_history _ _ h
  have ht : ((s.openCursor base len (loopBit loop)).attempt
        [.freq s.cfg.carrierHz, .duty s.cfg.neutral, .arm sampleRate]).2.timer = s.timer ∧
      (((s.openCursor base len (loopBit loop)).attempt
        [.freq s.cfg.carrierHz, .duty s.cfg.neutral, .arm sampleRate]).2.pwm.duty = s.pwm.duty ∨
      ((s.openCursor base len (loopBit loop)).attempt
        [.freq s.cfg.carrierHz, .duty s.cfg.neutral, .arm sampleRate]).2.pwm.duty = s.cfg.neutral) := by
    clear hh
    revert h
    rcases State.attempt_cons_cases (s.openCursor base len (loopBit loop)) (.freq s.cfg.carrierHz)
      [.duty s.cfg.neutral, .arm sampleRate] with ⟨-, e⟩ | ⟨-, e⟩ <;> rw [e]
    · generalize h1 : ((s.openCursor base len (loopBit loop)).drawFault.2.note (.write (.freq s.cfg.carrierHz))
        true).applyWrite (.freq s.cfg.carrierHz) = s1
      rcases State.attempt_cons_cases s1 (.duty s.cfg.neutral) [.arm sampleRate] with ⟨-, e1⟩ | ⟨-, e1⟩ <;> rw [e1]
      · generalize h2 : (s1.drawFault.2.note (.write (.duty s.cfg.neutral)) true).applyWrite
          (.duty s.cfg.neutral) = s2
        rcases State.attempt_cons_cases s2 (.arm sampleRate) [] with ⟨-, e2⟩ | ⟨-, e2⟩ <;> rw [e2]
        · simp
        · simp [← h2, ← h1]
      · simp [← h1]
    · simp
  exact ⟨by simp [keepsData], by simp, ht.1, ht.2, by simp, by simp, by simp, by simpa using hh⟩

/-- The state a successful START leaves (R133). -/
def startedState (base len sampleRate : Word) (loop : Byte) (s : State) : State :=
  { s with
    pbe := { state := .playing, bufBase := base, bufLen := len, position := 0#32, loop := loopBit loop }
    timer := { armed := true, rate := sampleRate, pending := s.timer.pending }
    pwm := { freq := s.cfg.carrierHz, duty := s.cfg.neutral }
    cmd := { s.cmd with tx := s.cmd.tx ++ [.ok] }
    env := (s.drawn 3).env
    trace := okWrite (.arm sampleRate) :: okWrite (.duty s.cfg.neutral) :: okWrite (.freq s.cfg.carrierHz) :: s.trace }

/-- START past its checks begins a session when its three writes succeed, else takes the fault (R133, R136). -/
theorem startSession_cases (base len sampleRate : Word) (loop : Byte) (s : State) :
    (s.nextOk 3 ∧ startSession base len sampleRate loop s = startedState base len sampleRate loop s) ∨
    (¬ s.nextOk 3 ∧ ∃ u, StartFailed base len loop s u ∧
      startSession base len sampleRate loop s = u.takeFault.respond .hardwareFault) := by
  have hc := State.attempt_fst (s.openCursor base len (loopBit loop))
    [.freq s.cfg.carrierHz, .duty s.cfg.neutral, .arm sampleRate]
  replace hc : _ ↔ s.nextOk 3 := hc
  by_cases h : s.nextOk 3
  · refine .inl ⟨h, ?_⟩
    rw [startSession, State.attempt_three_ok (s := s.openCursor base len (loopBit loop)) _ _ _ h]
    rfl
  · have : ((s.openCursor base len (loopBit loop)).attempt
        [.freq s.cfg.carrierHz, .duty s.cfg.neutral, .arm sampleRate]).1 = false := by
      by_contra hne
      exact h (hc.mp (by simpa using hne))
    refine .inr ⟨h, _, startTry_failed this, ?_⟩
    unfold startSession
    split
    · rename_i heq; simp [heq] at this
    · rename_i heq; rw [heq]

/-! TICK. -/

/-- The state a TICK that writes sample `i` leaves (R141). -/
def sampledState (s : State) (i : Word) : State :=
  { s with
    pbe := { s.pbe with position := i + 1#32 }
    timer := { s.timer with pending := false }
    pwm := { s.pwm with duty := dutyOf s.cfg (playingSample s i.toNat) }
    env := (s.drawn 2).env
    trace := okWrite (.duty (dutyOf s.cfg (playingSample s i.toNat))) :: { access := .fetch i, ok := true } :: s.trace }

/-- The state a TICK that finishes the buffer leaves (R143). -/
def finishedState (s : State) : State :=
  { s with
    pbe := { s.pbe with state := .finished }
    timer := { s.timer with armed := false, pending := false }
    pwm := { s.pwm with duty := s.cfg.neutral }
    env := (s.drawn 2).env
    trace := okWrite (.duty s.cfg.neutral) :: okWrite .disarm :: s.trace }

/-- Where a TICK stands when an access has failed and the fault entry begins (R144). -/
structure TickFailed (s u : State) : Prop where
  data    : keepsData s u
  pbe     : u.pbe = { s.pbe with
              position := if s.pbe.position = s.pbe.bufLen ∧ s.pbe.loop = true then 0#32 else s.pbe.position }
  pwm     : u.pwm = s.pwm
  rate    : u.timer.rate = s.timer.rate
  pending : u.timer.pending = false
  armed   : u.timer.armed = s.timer.armed ∨
              (s.pbe.position = s.pbe.bufLen ∧ s.pbe.loop = false ∧ u.timer.armed = false ∧
                u.trace = { access := .write (.duty s.cfg.neutral), ok := false } :: okWrite .disarm :: s.trace)
  cmd     : u.cmd = s.cmd
  fg      : u.fg = s.fg
  cancel  : u.cancelPending = s.cancelPending
  history : ∃ a before, u.trace = { access := a, ok := false } :: (before ++ s.trace)

/-- The cases of a sample fetch and duty write at the cursor of a state `s0` (R140, R141). -/
theorem tickAdvance_cases (s : State) :
    (s.pbe.bufLen ≤ s.pbe.position ∧
      tickAdvance s = .next (s.note (.fetch s.pbe.position) false).takeFault) ∨
    (s.pbe.position < s.pbe.bufLen ∧ s.cfg.sampleMemBytes ≤ s.pbe.bufBase.toNat + s.pbe.position.toNat ∧
      tickAdvance s = .fault .sampleOutsideMemory) ∨
    (s.pbe.position < s.pbe.bufLen ∧ s.pbe.bufBase.toNat + s.pbe.position.toNat < s.cfg.sampleMemBytes ∧
      s.drawFault.1 = true ∧
      tickAdvance s = .next (s.drawFault.2.note (.fetch s.pbe.position) false).takeFault) ∨
    (s.pbe.position < s.pbe.bufLen ∧ s.pbe.bufBase.toNat + s.pbe.position.toNat < s.cfg.sampleMemBytes ∧
      s.drawFault.1 = false ∧
      tickAdvance s = .next (tickSample (playingSample s s.pbe.position.toNat)
        (s.drawFault.2.note (.fetch s.pbe.position) true))) := by
  unfold tickAdvance State.sampleFetch
  by_cases h1 : s.pbe.bufLen ≤ s.pbe.position
  · exact .inl ⟨h1, by simp [h1]⟩
  · have h1' := BitVec.not_le.mp h1
    by_cases h2 : s.cfg.sampleMemBytes ≤ s.pbe.bufBase.toNat + s.pbe.position.toNat
    · exact .inr (.inl ⟨h1', h2, by simp [h1, h2]⟩)
    · have h2' := not_le.mp h2
      rcases h : s.drawFault with ⟨b, s1⟩
      have e : s1 = s.drawFault.2 := by rw [h]
      cases b
      · refine .inr (.inr (.inr ⟨h1', h2', rfl, ?_⟩))
        simp [h1, h2, playingSample, e]
      · exact .inr (.inr (.inl ⟨h1', h2', rfl, by simp [h1, h2]⟩))

theorem tickSample_cases (b : Byte) (s : State) :
    (s.drawFault.1 = false ∧ tickSample b s =
      ((s.drawFault.2.note (.write (.duty (dutyOf s.cfg b))) true).applyWrite (.duty (dutyOf s.cfg b))).setPosition
        (s.pbe.position + 1#32)) ∨
    (s.drawFault.1 = true ∧ tickSample b s = (s.drawFault.2.note (.write (.duty (dutyOf s.cfg b))) false).takeFault) := by
  unfold tickSample
  rcases s.hwWrite_cases (.duty (dutyOf s.cfg b)) with ⟨h, e⟩ | ⟨h, e⟩
  · exact .inl ⟨h, by simp [e]⟩
  · exact .inr ⟨h, by simp [e]⟩

theorem tickFinish_cases (s : State) :
    (s.nextOk 2 ∧ tickFinish s.ackTick = finishedState s) ∨
    (¬ s.nextOk 2 ∧ (s.pbe.position = s.pbe.bufLen → s.pbe.loop = false →
      ∃ u, TickFailed s u ∧ tickFinish s.ackTick = u.takeFault)) := by
  by_cases h : s.nextOk 2
  · refine .inl ⟨h, ?_⟩
    rw [tickFinish, State.attempt_two_ok (s := s.ackTick) _ _ h]
    rfl
  · refine .inr ⟨h, fun hp hl => ?_⟩
    have d0 : s.ackTick.drawFault.1 = s.drawFault.1 := State.drawFault_congr rfl
    cases c1 : s.drawFault.1
    · have c2 : s.drawFault.2.drawFault.1 = true := by simpa [State.nextOk_succ, c1] using h
      set s1 := (s.ackTick.drawFault.2.note (.write .disarm) true).applyWrite .disarm with hs1
      have d1 : s1.drawFault.1 = true := by rw [← c2]; exact State.drawFault_congr rfl
      have e : s.ackTick.attempt [.disarm, .duty s.ackTick.cfg.neutral] =
          (false, s1.drawFault.2.note (.write (.duty s.cfg.neutral)) false) := by
        rw [State.attempt_cons, if_neg (by simp [d0, c1]), State.hwWrite_of_ok _ (by rw [d0, c1]),
          State.attempt_cons, if_pos d1, State.hwWrite_of_fail _ d1]
        rfl
      refine ⟨_, ?_, by rw [tickFinish, e]⟩
      exact ⟨by simp [keepsData, hs1], by simp [hs1, hl]; rw [← hl], by simp [hs1], by simp [hs1], by simp [hs1],
        .inr ⟨hp, hl, by simp [hs1], by simp [hs1]⟩, by simp [hs1], by simp [hs1], by simp [hs1],
        ⟨.write (.duty s.cfg.neutral), [okWrite .disarm], by simp [hs1]⟩⟩
    · have e : s.ackTick.attempt [.disarm, .duty s.ackTick.cfg.neutral] =
          (false, s.ackTick.drawFault.2.note (.write .disarm) false) := by
        rw [State.attempt_cons, if_pos (by simp [d0, c1]), State.hwWrite_of_fail _ (by rw [d0, c1])]
      refine ⟨_, ?_, by rw [tickFinish, e]⟩
      exact ⟨by simp [keepsData], by simp [hl]; rw [← hl], by simp, by simp, by simp, .inl (by simp), by simp, by simp, by simp,
        ⟨.write .disarm, [], by simp⟩⟩

/-- The cases of TICK: no-op outside Playing; a sample; the end of a single-shot buffer; a failed access and the fault
entry; an address outside sample memory, which only a state without the invariant has (R141 to R144). -/
theorem execTick_cases (s : State) :
    (s.pbe.state ≠ .playing ∧ exec .tick s = .next s.ackTick) ∨
    (s.pbe.state = .playing ∧ (s.pbe.position = s.pbe.bufLen → s.pbe.loop = true) ∧
      nextIndex s < s.pbe.bufLen ∧ s.pbe.bufBase.toNat + (nextIndex s).toNat < s.cfg.sampleMemBytes ∧ s.nextOk 2 ∧
      exec .tick s = .next (sampledState s (nextIndex s))) ∨
    (s.pbe.state = .playing ∧ s.pbe.position = s.pbe.bufLen ∧ s.pbe.loop = false ∧ s.nextOk 2 ∧
      exec .tick s = .next (finishedState s)) ∨
    (s.pbe.state = .playing ∧ (s.nextOk 2 → s.pbe.bufLen ≤ nextIndex s) ∧
      ∃ u, TickFailed s u ∧ exec .tick s = .next u.takeFault) ∨
    (s.pbe.state = .playing ∧ nextIndex s < s.pbe.bufLen ∧
      s.cfg.sampleMemBytes ≤ s.pbe.bufBase.toNat + (nextIndex s).toNat ∧
      exec .tick s = .fault .sampleOutsideMemory) := by
  by_cases hp : s.pbe.state = .playing
  swap
  · exact .inl ⟨hp, by simp [exec, execTick, hp]⟩
  by_cases hend : s.pbe.position = s.pbe.bufLen ∧ s.pbe.loop = false
  · obtain ⟨he, hl⟩ := hend
    have hx : exec .tick s = .next (tickFinish s.ackTick) := by
      simp [exec, execTick, hp, tickPlaying, he, hl]
    rcases tickFinish_cases s with ⟨h, e⟩ | ⟨hno, h⟩
    · exact .inr (.inr (.inl ⟨hp, he, hl, h, by rw [hx, e]⟩))
    · obtain ⟨u, hu, e⟩ := h he hl
      exact .inr (.inr (.inr (.inl ⟨hp, fun hn => absurd hn hno, u, hu, by rw [hx, e]⟩)))
  · have hloop : s.pbe.position = s.pbe.bufLen → s.pbe.loop = true := fun e => by
      by_contra h; exact hend ⟨e, by simpa using h⟩
    -- the state at the cursor the fetch uses
    obtain ⟨s0, hs0, hx⟩ : ∃ s0 : State, s0 = s.ackTick.setPosition (nextIndex s) ∧ exec .tick s = tickAdvance s0 := by
      refine ⟨_, rfl, ?_⟩
      by_cases he : s.pbe.position = s.pbe.bufLen
      · simp [exec, execTick, hp, tickPlaying, he, hloop he, nextIndex]
      · simp [exec, execTick, hp, tickPlaying, he, nextIndex, State.setPosition, State.ackTick]
        rw [← hp]
    have hpos : nextIndex s = if s.pbe.position = s.pbe.bufLen ∧ s.pbe.loop = true then 0#32 else s.pbe.position := by
      by_cases he : s.pbe.position = s.pbe.bufLen
      · simp [nextIndex, he, hloop he]
      · simp [nextIndex, he]
    have d0 : s0.drawFault.1 = s.drawFault.1 := by rw [hs0]; exact State.drawFault_congr rfl
    have failed : ∀ u : State, keepsData s u → u.pbe = s0.pbe → u.pwm = s.pwm → u.timer = s0.timer → u.cmd = s.cmd →
        u.fg = s.fg → u.cancelPending = s.cancelPending →
        (∃ a before, u.trace = { access := a, ok := false } :: (before ++ s.trace)) → TickFailed s u := by
      intro u h1 h2 h3 h4 h5 h6 h7 h8
      exact ⟨h1, by rw [h2, hs0]; simp [hpos], h3, by rw [h4, hs0]; simp, by rw [h4, hs0]; simp,
        .inl (by rw [h4, hs0]; simp), h5, h6, h7, h8⟩
    have hlen : s0.pbe.bufLen = s.pbe.bufLen := by rw [hs0]; simp
    have hbase : s0.pbe.bufBase = s.pbe.bufBase := by rw [hs0]; simp
    have hcur : s0.pbe.position = nextIndex s := by rw [hs0]; simp
    have hcfg : s0.cfg = s.cfg := by rw [hs0]; simp
    rcases tickAdvance_cases s0 with ⟨h1, e⟩ | ⟨h1, h2, e⟩ | ⟨h1, h2, h3, e⟩ | ⟨h1, h2, h3, e⟩
    · refine .inr (.inr (.inr (.inl ⟨hp, fun _ => ?_, _, failed _ ?_ ?_ ?_ ?_ ?_ ?_ ?_ ⟨.fetch s0.pbe.position, [], ?_⟩,
        by rw [hx, e]⟩)))
      · rwa [hlen, hcur] at h1
      all_goals simp [keepsData, hs0]
    · rw [hlen, hcur] at h1
      rw [hcfg, hbase, hcur] at h2
      exact .inr (.inr (.inr (.inr ⟨hp, h1, h2, by rw [hx, e]⟩)))
    · refine .inr (.inr (.inr (.inl ⟨hp, fun hn => ?_, _, failed _ ?_ ?_ ?_ ?_ ?_ ?_ ?_ ⟨.fetch s0.pbe.position, [], ?_⟩,
        by rw [hx, e]⟩)))
      · rw [d0, ((State.nextOk_succ _ _).mp hn).1] at h3
        exact absurd h3 (by simp)
      all_goals simp [keepsData, hs0]
    · rcases tickSample_cases (playingSample s0 s0.pbe.position.toNat)
        (s0.drawFault.2.note (.fetch s0.pbe.position) true) with ⟨h4, e4⟩ | ⟨h4, e4⟩
      · rw [hlen, hcur] at h1
        rw [hcfg, hbase, hcur] at h2
        have hn : s.nextOk 2 := by
          refine (State.nextOk_succ _ _).mpr ⟨d0 ▸ h3, (State.nextOk_succ _ _).mpr ⟨?_, rfl⟩⟩
          rw [← h4, hs0]
          exact State.drawFault_congr rfl
        refine .inr (.inl ⟨hp, hloop, h1, h2, hn, ?_⟩)
        rw [hx, e, e4, hs0]
        rfl
      · refine .inr (.inr (.inr (.inl ⟨hp, fun hn => ?_, _, failed _ ?_ ?_ ?_ ?_ ?_ ?_ ?_
          ⟨.write (.duty (dutyOf s.cfg (playingSample s0 s0.pbe.position.toNat))),
            [{ access := .fetch s0.pbe.position, ok := true }], ?_⟩, by rw [hx, e, e4]⟩)))
        · have h2 := ((State.nextOk_succ _ _).mp ((State.nextOk_succ _ _).mp hn).2).1
          have h5 : (s0.drawFault.2.note (.fetch s0.pbe.position) true).drawFault.1 = s.drawFault.2.drawFault.1 := by
            rw [hs0]; exact State.drawFault_congr rfl
          rw [h5, h2] at h4
          exact absurd h4 (by simp)
        all_goals simp [keepsData, hs0]

end Sys2Proof.Machine
end

