-- ==== Sys2Proof/Laws/Step.lean ====
section
/-! SUPPORT. What a step can do, said once: the cases of a boundary, of the foreground and of `step`. -/

namespace Sys2Proof.Machine

/-- What is due at a boundary (R163). -/
theorem boundaryStep_cases (s : State) :
    (s.timer.pending = true ∧ boundaryStep s = exec .tick s) ∨
    (s.timer.pending = false ∧ s.cancelPending = true ∧ boundaryStep s = exec .cancel s) ∨
    (s.timer.pending = false ∧ s.cancelPending = false ∧ boundaryStep s = foregroundStep s) := by
  cases h : s.timer.pending
  · cases h' : s.cancelPending
    · exact .inr (.inr ⟨rfl, rfl, by simp [boundaryStep, h, h']⟩)
    · exact .inr (.inl ⟨rfl, rfl, by simp [boundaryStep, h, h']⟩)
  · exact .inl ⟨rfl, by simp [boundaryStep, h]⟩

/-- What the foreground's next micro-step is (R58, R66, R76). -/
theorem foregroundStep_cases (s : State) :
    (s.fg = .idle ∧ decodeCommand s.cmd.rx = .incomplete ∧ foregroundStep s = .next s) ∨
    (s.fg = .idle ∧ (∃ op, decodeCommand s.cmd.rx = .reserved op) ∧
      foregroundStep s = .next ((s.setRx (s.cmd.rx.drop 1)).respond .illegalCommand)) ∨
    (s.fg = .idle ∧ ∃ i rest, decodeCommand s.cmd.rx = .instr i rest ∧ foregroundStep s = exec i (s.setRx rest)) ∨
    (∃ base len sampleRate loop, s.fg = .startHeld base len sampleRate loop ∧
      foregroundStep s = .next (startResume base len sampleRate loop s)) ∨
    (∃ dst, s.fg = .captureWait dst ∧ foregroundStep s = .next (capturePoll dst s)) ∨
    (∃ dst, s.fg = .captureTake dst ∧ foregroundStep s = captureTake dst s) := by
  unfold foregroundStep serveCommand
  cases s.fg with
  | idle => cases decodeCommand s.cmd.rx <;> simp
  | startHeld base len sampleRate loop => simp
  | captureWait dst => simp
  | captureTake dst => simp

/-- A step that goes on: a boundary at which nothing arrives, one at which something does with the request held after it,
or a reset (R161, R163, R187). -/
theorem step_cases {s t : State} (h : step s = .next t) :
    (s.env.boundaries = [] ∧ boundaryStep s = .next t) ∨
    (∃ a later s1 u, s.env.boundaries = .arrive a :: later ∧
      s1 = { s with env := { s.env with boundaries := later } }.absorb a ∧ boundaryStep s1 = .next u ∧
      t = u.holdRequest (a.during && (s.timer.armed || u.timer.armed))) ∨
    (∃ later, s.env.boundaries = .reset :: later ∧
      t = { s with env := { s.env with boundaries := later } }.applyReset) := by
  unfold step stepOnce at h
  split at h
  · rename_i hb; exact .inl ⟨hb, h⟩
  · rename_i a later hb
    unfold boundaryStepDuring at h
    split at h
    · rename_i u hu
      injection h with h
      exact .inr (.inl ⟨a, later, _, u, hb, rfl, hu, h.symm⟩)
    · cases h
    · cases h
  · rename_i later hb
    injection h with h
    exact .inr (.inr ⟨later, hb, h.symm⟩)

/-- A step goes on exactly where its boundary does. -/
theorem step_goes_on {s : State} (h : ∀ a later, s.env.boundaries = .arrive a :: later →
      ∃ u, boundaryStep ({ s with env := { s.env with boundaries := later } }.absorb a) = .next u)
    (h0 : ∃ t, boundaryStep s = .next t) : ∃ t, step s = .next t := by
  unfold step stepOnce
  split
  · exact h0
  · rename_i a later hb
    obtain ⟨u, hu⟩ := h a later hb
    exact ⟨_, by rw [boundaryStepDuring, hu]⟩
  · exact ⟨_, rfl⟩

end Sys2Proof.Machine
end

