-- ==== Sys2Proof/Tests/Slice0.lean ====
section
/-! SUPPORT. Tests on the spec's own frames and vectors (95_test_vectors.md), each about one step or one function. -/

namespace Sys2Proof.Tests

open Sys2Proof.Machine

/-- The outcome is a next state with a property. -/
def nextIs (o : Host.Outcome State Fault Refusal) (p : State → Bool) : Bool :=
  match o with
  | .next t => p t
  | .fault _ => false
  | .refused _ => false

/-- "reset, then the grace period over", every oracle answer scripted ok (95_test_vectors.md, Part 3). -/
def bench : State :=
  { State.reset with
    boot := { graceDone := true }
    env := { Env.silent with
      faults := [false, false, false, false, false, false]
      readFails := [false]
      storeResults := [.stored] } }

/-- `bench` with the oracle answering as listed. -/
def withFaults (fs : List Bool) (s : State) : State :=
  { s with env := { s.env with faults := fs } }

/-- Bytes put into sample memory from an address up. -/
def withSamples (a : Nat) (vs : List Byte) (s : State) : State :=
  { s with sm := s.sm.writeList a vs }

/-- The session of V42 to V51: `SM[16..19) = 10, 20, 30`, Playing at a position with a duty on the output. -/
def session (position : Word) (duty : Nat) (loop : Bool) : State :=
  withSamples 16 [10#8, 20#8, 30#8]
    { bench with
      pbe := { state := .playing, bufBase := 16#32, bufLen := 3#32, position := position, loop := loop }
      timer := { armed := true, rate := 8000#32, pending := true }
      pwm := { freq := 20000#32, duty := duty } }

/-- The 48 bytes of V1. -/
def v1 : List Byte :=
  [0x52#8, 0x49#8, 0x46#8, 0x46#8, 0x28#8, 0x00#8, 0x00#8, 0x00#8, 0x57#8, 0x41#8, 0x56#8, 0x45#8,
   0x66#8, 0x6D#8, 0x74#8, 0x20#8] ++
  [0x10#8, 0x00#8, 0x00#8, 0x00#8, 0x01#8, 0x00#8, 0x01#8, 0x00#8, 0x04#8, 0x00#8, 0x00#8, 0x00#8,
   0x04#8, 0x00#8, 0x00#8, 0x00#8] ++
  [0x01#8, 0x00#8, 0x08#8, 0x00#8, 0x64#8, 0x61#8, 0x74#8, 0x61#8, 0x04#8, 0x00#8, 0x00#8, 0x00#8,
   0x64#8, 0x96#8, 0x4B#8, 0x65#8]

/-- The 63 bytes of V13. -/
def v13 : List Byte :=
  [0x52#8, 0x49#8, 0x46#8, 0x46#8, 0xEF#8, 0xBE#8, 0xAD#8, 0xDE#8, 0x57#8, 0x41#8, 0x56#8, 0x45#8,
   0x66#8, 0x6D#8, 0x74#8, 0x20#8] ++
  [0x12#8, 0x00#8, 0x00#8, 0x00#8, 0x01#8, 0x00#8, 0x01#8, 0x00#8, 0x40#8, 0x1F#8, 0x00#8, 0x00#8,
   0x01#8, 0x00#8, 0x00#8, 0x00#8] ++
  [0x07#8, 0x00#8, 0x08#8, 0x00#8, 0x00#8, 0x00#8, 0x4C#8, 0x49#8, 0x53#8, 0x54#8, 0x04#8, 0x00#8,
   0x00#8, 0x00#8, 0x61#8, 0x62#8] ++
  [0x63#8, 0x64#8, 0x64#8, 0x61#8, 0x74#8, 0x61#8, 0x02#8, 0x00#8, 0x00#8, 0x00#8, 0xC8#8, 0x32#8,
   0xEE#8, 0xEE#8, 0xEE#8]

/-! Well-formedness. -/

theorem test_wellFormed_refuses_reserved_loop_bit : (Instr.start 0#32 4#32 4#32 2#8).WellFormed = false := by decide
theorem test_wellFormed_accepts_loop : (Instr.start 0#32 4#32 4#32 1#8).WellFormed = true := by decide
theorem test_isCommand_refuses_events : Instr.tick.isCommand = false ∧ Instr.cancel.isCommand = false := by decide

/-! Decoding: the frames of P1 to P3, and the event codes of R75. -/

theorem test_decode_start :
    decodeCommand [0x10#8, 0x10#8, 0#8, 0#8, 0#8, 0x03#8, 0#8, 0#8, 0#8, 0x40#8, 0x1F#8, 0#8, 0#8, 0x01#8, 0x12#8] =
      .instr (.start 16#32 3#32 8000#32 1#8) [0x12#8] := by decide
theorem test_decode_stop : decodeCommand [0x11#8] = .instr .stop [] := by decide
theorem test_decode_status : decodeCommand [0x12#8] = .instr .status [] := by decide
theorem test_decode_capture :
    decodeCommand [0x20#8, 0#8, 0#8, 0#8, 0#8, 4#8, 0#8, 0#8, 0#8, 1#8, 0#8, 0#8, 0#8] =
      .instr (.capture 0#32 4#32 1#32) [] := by decide
theorem test_decode_smooth :
    decodeCommand [0x30#8, 0#8, 0#8, 0#8, 0#8, 4#8, 0#8, 0#8, 0#8, 0#8, 0x80#8, 0#8, 0#8] =
      .instr (.smooth 0#32 4#32 32768#32) [] := by decide
theorem test_decode_decode :
    decodeCommand [0x40#8, 7#8, 0#8, 0#8, 0#8, 0#8, 1#8, 0#8, 0#8] = .instr (.decode 7#32 256#32) [] := by decide
theorem test_decode_encode :
    decodeCommand [0x41#8, 7#8, 0#8, 0#8, 0#8, 0#8, 0#8, 0#8, 0#8, 4#8, 0#8, 0#8, 0#8, 4#8, 0#8, 0#8, 0#8] =
      .instr (.encode 7#32 0#32 4#32 4#32) [] := by decide
theorem test_decode_tick : decode [0x80#8] = .instr .tick [] := by decide
theorem test_decode_cancel : decode [0x81#8] = .instr .cancel [] := by decide
/-- V54. -/
theorem test_decode_reserved :
    [0x00#8, 0x13#8, 0x21#8, 0x42#8, 0x80#8, 0x81#8, 0xFF#8].map (fun b => decodeCommand [b]) =
      [.reserved 0x00#8, .reserved 0x13#8, .reserved 0x21#8, .reserved 0x42#8, .reserved 0x80#8, .reserved 0x81#8,
        .reserved 0xFF#8] := by decide
/-- A frame cut short is no frame (R76). -/
theorem test_decode_incomplete : decodeCommand [0x40#8, 7#8, 0#8, 0#8] = .incomplete := by decide
/-- A table word of the whole DECODE frame, and of its opcode byte alone. -/
theorem test_decodeTableWord :
    decodeTableWord 72 0x000001000000000740 = some (.decode 7#32 256#32) ∧
      decodeTableWord 8 0x40 = some (.decode 0#32 0#32) := by decide

/-! The clock (V21, V22, V23). -/

theorem test_tickAdd_wraps : tickAdd Config.params 1073691824 250000 = 200000 := by decide
theorem test_tickDiff_across_wrap :
    tickDiff Config.params 5 1073741820 = 9 ∧ tickDiff Config.params 1073741820 5 = -9 := by decide
theorem test_tickDiff_half : tickDiff { Config.params with tickBits := 3 } 5 1 = -4 ∧
    tickDiff { Config.params with tickBits := 3 } 1 6 = 3 := by decide
theorem test_period_rounds : period Config.params 44100 = 23 ∧ period Config.params 11025 = 91 := by decide
theorem test_period_ties : period Config.params 128 = 7812 ∧ period Config.params 2000000 = 0 ∧
    period { Config.params with roundTie := .up } 128 = 7813 := by decide
theorem test_quantize : quantize Config.params 0xC8FF = 200#8 ∧
    quantize { Config.params with adcBits := 12 } 0x010 = 1#8 := by decide

/-! START. -/

/-- V41, the start. -/
theorem test_start_begins : nextIs (exec (.start 0#32 4#32 4#32 0#8) bench) (fun t =>
    t.pbe == { state := .playing, bufBase := 0#32, bufLen := 4#32, position := 0#32, loop := false } &&
    t.timer == { armed := true, rate := 4#32, pending := false } && t.pwm == { freq := 20000#32, duty := 32768 } &&
    t.cmd.tx == [.ok]) := by decide
/-- V50: the arm fails. -/
theorem test_start_arm_fails : nextIs (exec (.start 16#32 3#32 8000#32 0#8)
    (withFaults [false, false, true, false, false] bench)) (fun t =>
    t.pbe.state == .faulted && t.timer.armed == false && t.pwm.duty == 32768 && t.cmd.tx == [.hardwareFault] &&
    t.trace.map (·.ok) == [true, true, false, true, true]) := by decide

/-! TICK. -/

/-- V41, TICK 2: sample 150 at position 1. -/
theorem test_tick_sample : nextIs (exec .tick (withSamples 17 [150#8] (session 1#32 25600 false))) (fun t =>
    t.pwm.duty == 38400 && t.pbe.position == 2#32 && t.pbe.state == .playing && t.timer.pending == false) := by decide
/-- V48: the duty write and the shutdown's neutral write fail. -/
theorem test_tick_shutdown_fails : nextIs (exec .tick (withFaults [false, true, false, true] (session 1#32 2560 false)))
    (fun t => t.pbe.state == .faulted && t.pbe.position == 1#32 && t.pwm.duty == 2560 && t.timer.armed == false) := by
  decide

/-! STOP, STATUS, CANCEL. -/

/-- V43. -/
theorem test_stop_session : nextIs (exec .stop (session 2#32 5120 true)) (fun t =>
    t.pbe.state == .stopped && t.pbe.position == 2#32 && t.pwm.duty == 32768 && t.timer.armed == false &&
    t.cmd.tx == [.ok]) := by decide
/-- V50: STOP's disarm fails. -/
theorem test_stop_disarm_fails : nextIs (exec .stop (withFaults [true, false] (session 2#32 5120 true))) (fun t =>
    t.pbe.state == .faulted && t.pwm.duty == 32768 && t.timer.armed == true && t.cmd.tx == [.hardwareFault]) := by decide
/-- V41: `STATUS` while Playing answers the bytes `00 01`. -/
theorem test_status_playing : nextIs (exec .status (session 2#32 5120 true)) (fun t =>
    t.cmd.tx.map Response.bytes == [[0x00#8, 0x01#8]]) := by decide
/-- V53: CANCEL of a held START. -/
theorem test_cancel_held_start : nextIs (exec .cancel { bench with
      fg := .startHeld 16#32 3#32 8000#32 0#8, boot := { graceDone := false } }) (fun t =>
    t.fg == .idle && t.pbe.state == .idle && t.trace == [] && t.cmd.tx.map Response.bytes == [[0x07#8]]) := by decide
/-- V53: CANCEL of a session. -/
theorem test_cancel_session : nextIs (exec .cancel (session 2#32 5120 true)) (fun t =>
    t.pbe.state == .stopped && t.pwm.duty == 32768 && t.cmd.tx == [.interrupted]) := by decide

/-! CAPTURE. -/

/-- V20, the set-up. -/
theorem test_capture_setup : nextIs (exec (.capture 0#32 4#32 1#32)
    { bench with env := { bench.env with tickGaps := [1073441824] } }) (fun t =>
    t.cap == { nextDeadline := 1073441824, period := 250000, index := 0#32, count := 4#32 } &&
    t.fg == .captureWait 0#32) := by decide
/-- V20, slot 1: the deadline wraps to 200000 and 0xC8FF is stored as 200. -/
theorem test_capture_take : nextIs (captureTake 0#32 { bench with
      cap := { nextDeadline := 1073691824, period := 250000, index := 1#32, count := 4#32 }
      env := { bench.env with adcReadings := [0xC8FF] } }) (fun t =>
    t.cap == { nextDeadline := 200000, period := 250000, index := 2#32, count := 4#32 } && t.sm.read 1 == 200#8 &&
    t.fg == .captureWait 0#32) := by decide

/-! SMOOTH. -/

/-- V33: the accumulator is carried unfloored. -/
theorem test_smooth_unfloored : nextIs (exec (.smooth 16#32 3#32 16384#32) (withSamples 16 [1#8, 0#8, 2#8] bench))
    (fun t => t.sm.readList 16 3 == [1#8, 0#8, 1#8] && t.cmd.tx == [.ok]) := by decide +kernel
/-- V36. -/
theorem test_smooth_six : nextIs (exec (.smooth 0#32 6#32 8192#32)
    (withSamples 0 [128#8, 130#8, 126#8, 255#8, 0#8, 128#8] bench))
    (fun t => t.sm.readList 0 6 == [128#8, 128#8, 127#8, 143#8, 125#8, 126#8]) := by decide +kernel

/-! DECODE and ENCODE. -/

/-- V1. -/
theorem test_decode_v1 : nextIs (exec (.decode 7#32 0#32) { bench with storage := [(7, v1)] }) (fun t =>
    t.sm.readList 0 4 == [100#8, 150#8, 75#8, 101#8] && t.wvc.offset == 48#32 &&
    t.wd == { sampleRate := 4#32, sampleCount := 4#32 } &&
    t.cmd.tx.map Response.bytes == [[0#8, 4#8, 0#8, 0#8, 0#8, 4#8, 0#8, 0#8, 0#8]]) := by decide
/-- V13: accepted deviations. -/
theorem test_decode_v13 : nextIs (exec (.decode 7#32 0#32) { bench with storage := [(7, v13)] }) (fun t =>
    t.sm.readList 0 2 == [200#8, 50#8] && t.wvc.offset == 60#32 && t.cmd.tx == [.decoded 2#32 8000#32]) := by decide
/-- V4 to V12, V15: which error each defect gives. -/
theorem test_decode_rejections :
    [v1.set 0 0x72#8, v1.set 11 0x65#8, v1.set 15 0x00#8, v1.set 16 0x0E#8, v1.set 20 0x03#8, v1.set 22 0x02#8,
      v1.set 34 0x10#8, v1.set 39 0x5F#8, v1.set 40 0x05#8].map readWav =
    [.bad 4 .badRiffMarker, .bad 12 .badWaveMarker, .bad 16 .badFmtMarker, .bad 20 .fmtTruncated, .bad 36 .notPcm,
      .bad 36 .badChannels, .bad 36 .badBitDepth, .bad 48 .dataChunkMissing, .bad 44 .dataTruncated] := by decide
/-- V15. -/
theorem test_decode_prefixes :
    [v1.take 3, v1.take 7, v1.take 11, v1.take 15, v1.take 35, v1.take 43, v1.take 47].map readWav =
    [.bad 0 .badRiffMarker, .bad 4 .fmtTruncated, .bad 8 .badWaveMarker, .bad 12 .badFmtMarker, .bad 20 .fmtTruncated,
      .bad 40 .dataChunkMissing, .bad 44 .dataTruncated] := by decide
/-- V2a: the stream ENCODE stores is that of V1. -/
theorem test_encode_v2a : nextIs (exec (.encode 7#32 0#32 4#32 4#32)
    (withSamples 0 [100#8, 150#8, 75#8, 101#8] bench)) (fun t =>
    cellGet t.storage 7 == some v1 && t.wd == { sampleRate := 4#32, sampleCount := 4#32 } && t.cmd.tx == [.ok]) := by
  decide
/-- V19: the region does not fit. -/
theorem test_encode_refused : nextIs (exec (.encode 7#32 65535#32 2#32 8000#32) bench) (fun t =>
    t == bench.respond .argumentError) := by decide +kernel

/-! Steps. -/

/-- From reset a placed STATUS runs at the next step. -/
theorem test_step_runs_placed_status : nextIs (step (State.reset.withFetchWord 8 0x12)) (fun t =>
    t.cmd.tx == [.status .idle] && t.cmd.rx == []) := by decide
/-- From reset a START is held (R137). -/
theorem test_step_holds_start :
    nextIs (step (State.reset.withFetchWord 112 0x01000000040000000400000000_10)) (fun t =>
      t.fg == .startHeld 0#32 4#32 4#32 1#8 && t.cmd.tx == []) := by decide
/-- A pending TICK goes before a pending CANCEL (R163). -/
theorem test_step_tick_before_cancel :
    nextIs (step { session 0#32 32768 false with cancelPending := true }) (fun t =>
      t.pwm.duty == 2560 && t.cancelPending == true) := by decide
/-- A boundary at which nothing arrives, with a period that elapses while the step runs. -/
def periodDuring : Boundary := .arrive { quietArrivals with during := true }

/-- R161, R198: a period elapses while STOP runs; its TICK is still pending after the disarm. -/
theorem test_step_late_tick : nextIs (step { (session 2#32 5120 true).ackTick.setRx [0x11#8] with
      env := { bench.env with boundaries := [periodDuring] } }) (fun t =>
    t.pbe.state == .stopped && t.timer == { armed := false, rate := 8000#32, pending := true } &&
    t.cmd.tx == [.ok]) := by decide
/-- R26: no request arises while the timer is disarmed before and after the step. -/
theorem test_step_no_request_while_disarmed : nextIs (step { bench.setRx [0x11#8] with
      env := { bench.env with boundaries := [periodDuring] } }) (fun t =>
    t.timer.pending == false && t.cmd.tx == [.ok]) := by decide
/-- Reset in the middle of a session keeps storage (R187). -/
theorem test_step_reset : nextIs (step { session 1#32 2560 true with
      storage := [(7, v1)], env := { bench.env with boundaries := [.reset] } }) (fun t =>
    t.pbe.state == .idle && t.timer.armed == false && t.pwm.duty == 32768 && t.storage == [(7, v1)]) := by decide

/-! Witnesses: for every statement with hypotheses, a concrete state and operands that meet all of them. -/

/-- The session after its three samples, where TICK N+1 comes. -/
def atEnd (loop : Bool) : State := session 3#32 7680 loop

theorem session_inv : Machine.Inv (session 1#32 25600 false) where
  params := by decide
  memory := by decide
  storage := by decide
  duty := .inr ⟨100#8, by decide⟩
  clock := ⟨by decide, by decide⟩
  cursor := fun _ => by decide
  foreground := trivial

theorem reset_inv : Machine.Inv State.reset where
  params := by decide
  memory := by decide
  storage := by decide
  duty := .inl rfl
  clock := ⟨by decide, by decide⟩
  cursor := fun h => by cases h
  foreground := trivial

theorem witness_EncodeOfDecode : decode [0x11#8, 0x12#8] = .instr .stop [0x12#8] := by decide

theorem witness_StepRunsTheFrame :
    (bench.setRx [0x12#8, 0x99#8]).quiet ∧ (bench.setRx [0x12#8, 0x99#8]).fg = .idle ∧
      decodeCommand (bench.setRx [0x12#8, 0x99#8]).cmd.rx = .instr .status [0x99#8] := by decide

theorem witness_StepAtReservedOrIncompleteFrame :
    (bench.setRx [0x13#8]).quiet ∧ (bench.setRx [0x13#8]).fg = .idle ∧
      0x13#8 ∉ [0x10#8, 0x11#8, 0x12#8, 0x20#8, 0x30#8, 0x40#8, 0x41#8] ∧
      decodeCommand ([] : List Byte) = .incomplete ∧
      decodeCommand [0x10#8, 0#8, 0#8, 0#8, 0#8, 0#8, 0#8, 0#8, 0#8, 0#8, 0#8, 0#8, 0#8] = .incomplete := by decide

theorem witness_TickBeforeCancelBeforeForeground :
    (session 0#32 32768 false).timer.pending = true ∧ { bench with cancelPending := true }.timer.pending = false ∧
      bench.timer.pending = false ∧ bench.cancelPending = false ∧ bench.env.boundaries = [] ∧
      { bench with env := { bench.env with boundaries := [periodDuring] } }.timer.pending = false := by decide

/-- A boundary of `s` at which `a` arrives. -/
def atBoundary (a : Arrivals) (s : State) : State :=
  { s with env := { s.env with boundaries := [.arrive a, .reset] } }

/-- Each arrival where its clause matters: a period while the timer is armed with none pending, with one pending, and while
it is disarmed; a second CANCEL; the end of the grace period; bytes; a period during the step over a disarm. -/
theorem witness_ArrivalsAtABoundary :
    (atBoundary { quietArrivals with period := true } (session 0#32 32768 false).ackTick).timer =
      { armed := true, rate := 8000#32, pending := false } ∧
    (atBoundary { quietArrivals with period := true } (session 0#32 32768 false)).timer.pending = true ∧
    (atBoundary { quietArrivals with period := true } bench).timer.armed = false ∧
    (atBoundary { quietArrivals with cancel := true } { bench with cancelPending := true }).cancelPending = true ∧
    (atBoundary { quietArrivals with grace := true, bytes := [0x12#8] } (bench.setRx [0x13#8])).cmd.rx = [0x13#8] ∧
    (atBoundary { quietArrivals with during := true } (atEnd false)).env.boundaries =
      .arrive { quietArrivals with during := true } :: [.reset] ∧
    nextIs (step (atBoundary { quietArrivals with during := true } (atEnd false)))
      (fun t => t.pbe.state == .finished && t.timer.armed == false && t.timer.pending == true) = true := by decide

theorem witness_ResetIsAStepOfItsOwn :
    { bench with env := { bench.env with boundaries := [.reset] } }.env.boundaries = .reset :: [] := by decide

/-- One witness per reason for refusing a START. -/
theorem witness_StartRefusals :
    (session 0#32 32768 false).pbe.state = .playing ∧ bench.pbe.state ≠ .playing ∧
      (2#8 : Byte).extractLsb' 1 7 ≠ 0#7 ∧ bench.cfg.timerMaxHz < (1000001#32).toNat ∧
      bench.cfg.sampleMemBytes < (65535#32).toNat + (2#32).toNat := by decide

/-- The checks of START at their last admitted values: the rate `TIMER_MAX_HZ`, a region up to the end of memory. -/
theorem witness_StartHeldByTheGracePeriod :
    State.reset.pbe.state ≠ .playing ∧ (1#8 : Byte).extractLsb' 1 7 = 0#7 ∧ 1000000#32 ≠ 0#32 ∧
      (1000000#32).toNat ≤ State.reset.cfg.timerMaxHz ∧
      (65535#32).toNat + (1#32).toNat ≤ State.reset.cfg.sampleMemBytes ∧ State.reset.boot.graceDone = false ∧
      (State.reset.setFg (.startHeld 65535#32 1#32 1000000#32 1#8)).quiet ∧
      (bench.setFg (.startHeld 65535#32 1#32 1000000#32 1#8)).quiet ∧ bench.boot.graceDone = true := by decide

theorem witness_StartBeginsASession : bench.pbe.state ≠ .playing ∧ (0#8 : Byte).extractLsb' 1 7 = 0#7 ∧
    (1000000#32).toNat ≤ bench.cfg.timerMaxHz ∧ (65535#32).toNat + (1#32).toNat ≤ bench.cfg.sampleMemBytes ∧
    bench.boot.graceDone = true ∧ bench.nextOk 3 := by decide

/-- The first, the second and the third write fail, with each pair of results of the shutdown met once or more. -/
theorem witness_StartFailureTakesTheFault : ¬ (withFaults [true, false, false] bench).nextOk 3 ∧
    (withFaults [true, false, false] bench).faultsAhead 3 = [true, !true, !true] ∧
    ¬ (withFaults [false, true, true, false] bench).nextOk 3 ∧
    (withFaults [false, true, true, false] bench).faultsAhead 4 = [false, true, !false, !true] ∧
    ¬ (withFaults [false, false, true, false, true] bench).nextOk 3 ∧
    (withFaults [false, false, true, false, true] bench).faultsAhead 5 = [false, false, true, !true, !false] ∧
    ¬ (withFaults [false, false, true, true, true] bench).nextOk 3 ∧
    (withFaults [false, false, true, true, true] bench).faultsAhead 5 = [false, false, true, !false, !false] := by decide

/-- The first sample, the last one, and the wrap of a looping cursor. -/
theorem witness_TickWritesTheSample :
    nextIndex (session 0#32 32768 false) < 3#32 ∧ nextIndex (session 2#32 5120 false) < 3#32 ∧
      (atEnd true).pbe.position = (atEnd true).pbe.bufLen ∧ nextIndex (atEnd true) = 0#32 ∧ (atEnd true).nextOk 2 ∧
      (session 2#32 5120 false).pbe.bufBase.toNat + (nextIndex (session 2#32 5120 false)).toNat < 65536 := by decide

theorem witness_TickFinishesTheBuffer : (atEnd false).pbe.state = .playing ∧
    (atEnd false).pbe.position = (atEnd false).pbe.bufLen ∧ (atEnd false).pbe.loop = false ∧ (atEnd false).nextOk 2 := by
  decide

/-- A failed fetch, a failed duty write and each failed write of the finish, with the shutdown after it. -/
theorem witness_TickFailureTakesTheFault :
    [session 0#32 32768 false |> withFaults [true, false, false],
      session 0#32 32768 false |> withFaults [false, true, false, true],
      atEnd false |> withFaults [true, true, false], atEnd false |> withFaults [false, true, true, false]].all
      (fun s => s.trace == [] && nextIs (exec .tick s) fun t => t.trace.any fun e => !e.ok) = true := by decide

theorem witness_TickOnAnEmptyLoopFaults :
    ({ bench with pbe := { state := .playing, bufBase := 16#32, bufLen := 0#32, position := 0#32, loop := true } } :
      State).pbe.loop = true := by decide

theorem witness_TickWritesOnlyItsOwn : ∃ t, exec .tick (session 0#32 32768 false) = .next t := ⟨_, rfl⟩

theorem witness_StopEndsTheSession :
    (session 0#32 32768 false).pbe.state = .playing ∧
      (withFaults [false, false] (session 0#32 32768 false)).faultsAhead 2 = [!true, !true] ∧
      (withFaults [true, false] (session 0#32 32768 false)).faultsAhead 2 = [!false, !true] ∧
      (withFaults [false, true] (session 0#32 32768 false)).faultsAhead 2 = [!true, !false] ∧
      (withFaults [true, true] (session 0#32 32768 false)).faultsAhead 2 = [!false, !false] := by decide

/-- CANCEL of a session with each pair of results of the teardown, and of an operation in progress outside a session. -/
theorem witness_CancelTearsDown :
    (session 2#32 5120 true).pbe.state = .playing ∧ (bench.setFg (.captureWait 0#32)).pbe.state ≠ .playing ∧
      (withFaults [false, false] (session 2#32 5120 true)).faultsAhead 2 = [!true, !true] ∧
      (withFaults [true, false] (session 2#32 5120 true)).faultsAhead 2 = [!false, !true] ∧
      (withFaults [false, true] (session 2#32 5120 true)).faultsAhead 2 = [!true, !false] ∧
      (withFaults [true, true] (session 2#32 5120 true)).faultsAhead 2 = [!false, !false] := by decide

theorem witness_ShutdownAttemptsBoth :
    (withFaults [true, false] bench).faultsAhead 2 = [!false, !true] ∧
      (withFaults [false, true] bench).faultsAhead 2 = [!true, !false] := by decide

theorem witness_outside_playing : bench.pbe.state ≠ .playing := by decide

theorem witness_FailingStepEndsFaulted :
    (withFaults [true, false, false] (session 0#32 32768 false)).trace = [] ∧
      nextIs (step (withFaults [true, false, false] (session 0#32 32768 false)))
        (fun t => t.trace.any fun e => !e.ok) = true := by decide

theorem witness_NeutralOutputKept : NeutralInv (session 1#32 25600 false) ∧
    ∃ t, step (session 1#32 25600 false) = .next t :=
  ⟨fun _ => ⟨fun _ => rfl, fun h => absurd rfl h⟩, ⟨_, rfl⟩⟩

theorem witness_InvariantKept : Machine.Inv (session 1#32 25600 false) ∧
    ∃ t, step (session 1#32 25600 false) = .next t := ⟨session_inv, ⟨_, rfl⟩⟩

/-- The session's TICKs leave it Playing, so that its buffer is read-only over a step. -/
theorem witness_PlayingBufferIsReadOnly : Machine.Inv (session 1#32 25600 false) ∧
    nextIs (step (session 1#32 25600 false)) (fun t => t.pbe.state == .playing) = true := ⟨session_inv, by decide⟩

/-- A whole single-shot session, and three rounds of a looping one, with the oracle scripted ok throughout. -/
theorem witness_sessions :
    (withFaults (List.replicate 18 false) (session 0#32 32768 false)).nextOk 8 ∧
      (withFaults (List.replicate 18 false) (session 0#32 32768 true)).nextOk 18 ∧
      (session 0#32 32768 true).pbe.bufLen ≠ 0#32 ∧
      (session 0#32 32768 true).pbe.bufBase.toNat + (session 0#32 32768 true).pbe.bufLen.toNat ≤ 65536 := by decide

theorem witness_EngineTransitions : ∃ t, exec .stop (session 0#32 32768 false) = .next t := ⟨_, rfl⟩

/-- One witness per reason for refusing a CAPTURE, each at the edge of its range, and a region that overlaps the playing
one by its last byte. -/
theorem witness_CaptureRefusals :
    period Config.params 2000000 = 0 ∧
      ({ Config.params with tickBits := 3 } : Params).modulus / 2 ≤ period { Config.params with tickBits := 3 } 250000 ∧
      Config.params.sampleMemBytes < (65533#32).toNat + (4#32).toNat * (1#32).toNat ∧
      regionBusy (session 0#32 32768 false) 13 4 = true ∧ regionBusy (session 0#32 32768 false) 12 4 = false := by decide

/-- A CAPTURE up to the end of memory, one of no samples, and the longest period `TICK_BITS = 3` admits. -/
theorem witness_CaptureSetsUp :
    period Config.params 4 = 250000 ∧ period Config.params 4 < Config.params.modulus / 2 ∧
      (65532#32).toNat + (4#32).toNat * (1#32).toNat ≤ Config.params.sampleMemBytes ∧
      regionBusy bench 65532 4 = false ∧ (4#32).toNat * (0#32).toNat = 0 ∧
      period { Config.params with tickBits := 3 } 333333 < ({ Config.params with tickBits := 3 } : Params).modulus / 2 := by
  decide

theorem witness_CapturePolls : (bench.setFg (.captureWait 0#32)).quiet ∧
    (bench.setFg (.captureWait 0#32)).fg = .captureWait 0#32 := by decide

/-- The last slot of a capture, up to the end of memory. -/
theorem witness_CaptureTakesOneSample :
    ((bench.setCap { nextDeadline := 0, period := 1, index := 3#32, count := 4#32 }).setFg (.captureTake 65532#32)).quiet ∧
      3#32 < 4#32 ∧ (65532#32).toNat + (4#32).toNat ≤ bench.cfg.sampleMemBytes := by decide

/-- A capture of two samples at the end of memory, both readings scripted. -/
theorem witness_CaptureFillsSlotsInOrder :
    (({ bench with env := { bench.env with adcReadings := [0xC8FF, 0x0100] } }.setCap
        { nextDeadline := 1073741823, period := 1, index := 0#32, count := 2#32 }).setFg (.captureWait 65534#32)).quiet ∧
      bench.cmd.rx = [] ∧ 1073741823 < bench.cfg.modulus ∧ (65534#32).toNat + (2#32).toNat ≤ bench.cfg.sampleMemBytes ∧ 2#32 ≠ 0#32 := by decide

theorem witness_tick_functions :
    3 ≤ ({ Config.params with tickBits := 3 } : Params).tickBits ∧
      7 < ({ Config.params with tickBits := 3 } : Params).modulus ∧ Config.params.roundTie = .even ∧
      8 ≤ ({ Config.params with adcBits := 8 } : Params).adcBits ∧ 255 < 2 ^ 8 := by decide

/-- `alpha_q` just outside its range at both ends, and a region that overlaps the playing one by one byte. -/
theorem witness_SmoothRefusals :
    2 ^ bench.cfg.alphaFracBits < (65537#32).toNat ∧ bench.cfg.sampleMemBytes < (65535#32).toNat + (2#32).toNat ∧
      (session 0#32 32768 false).pbe.state = .playing ∧ (18#32).toNat < 16 + 3 ∧ 16 < (18#32).toNat + (4#32).toNat := by
  decide

/-- `alpha_q` at both ends of its range, and a region next to the playing one. -/
theorem witness_SmoothStoresTheRunningAverage :
    (1#32).toNat ≤ 2 ^ bench.cfg.alphaFracBits ∧ (65536#32).toNat ≤ 2 ^ bench.cfg.alphaFracBits ∧
      (19#32).toNat + (4#32).toNat ≤ bench.cfg.sampleMemBytes ∧ regionBusy (session 0#32 32768 false) 19 4 = false ∧
      alphaAdmitted bench.cfg 1#32 = true ∧ alphaAdmitted bench.cfg 65536#32 = true ∧
      alphaAdmitted bench.cfg 0#32 = false := by decide

theorem witness_SmoothFixedPoints : (65536#32).toNat = 2 ^ bench.cfg.alphaFracBits ∧
    (∀ i, i < (2#32).toNat → (withSamples 0 [7#8, 7#8] bench).sm.read ((0#32).toNat + i) = 7#8) ∧
    ∃ t, exec (.smooth 0#32 2#32 1#32) (withSamples 0 [7#8, 7#8] bench) = .next t := ⟨by decide, by decide, ⟨_, rfl⟩⟩

/-- The first length the header cannot hold, in the largest memory. -/
theorem witness_EncodeRefusals : 2 ^ 32 - 37 < (4294967260#32).toNat ∧
    (0#32).toNat + (4294967260#32).toNat ≤ ({ Config.params with sampleMemBytes := 2 ^ 32 } : Params).sampleMemBytes := by
  decide

theorem witness_EncodeStoresTheContainer : (65532#32).toNat + (4#32).toNat ≤ bench.cfg.sampleMemBytes ∧
    (4#32).toNat ≤ 2 ^ 32 - 37 ∧ bench.drawStoreResult.1 = .stored := by decide

theorem witness_EncodeFailureLeavesOldOrPrefix :
    ({ bench with env := { bench.env with storeResults := [.failedPrefix 3] } } : State).drawStoreResult.1 ≠ .stored := by
  decide

/-- V13 is a stream of the grammar: a wrong overall size, an 18-byte format record, a skipped chunk, trailing bytes. -/
theorem witness_DecodeAcceptsTheGrammar :
    v13 = streamOf 0xDEADBEEF#32 (formatPayload 1#16 1#16 8000#32 1#32 7#16 8#16 [0#8, 0#8])
      [([0x4C#8, 0x49#8, 0x53#8, 0x54#8], [0x61#8, 0x62#8, 0x63#8, 0x64#8])]
      (chunkBytes tagData [0xC8#8, 0x32#8] ++ [0xEE#8, 0xEE#8, 0xEE#8]) ∧
    [0x4C#8, 0x49#8, 0x53#8, 0x54#8] ≠ tagData ∧ v13.length < 2 ^ 32 ∧ bench.drawReadFails.1 = false ∧
    cellGet { bench with storage := [(7, v13)] }.storage (7#32).toNat = some v13 ∧
    (65534#32).toNat + 2 ≤ bench.cfg.sampleMemBytes ∧ regionBusy bench 65534 2 = false := by decide

/-- Streams for the marker and FmtTruncated clauses, from V1: spoilt or cut markers, a stream cut inside the overall size,
the format size and the format payload, and a format size of 15. -/
theorem witness_ContainerRejections_header :
    (v1.set 0 0x72#8).take 4 ≠ tagRiff ∧
    ((v1.take 7).take 4 = tagRiff ∧ (v1.take 7).length < 8) ∧
    ((v1.set 11 0x65#8).take 4 = tagRiff ∧ 8 ≤ (v1.set 11 0x65#8).length ∧
      ((v1.set 11 0x65#8).drop 8).take 4 ≠ tagWave) ∧
    ((v1.take 15).take 4 = tagRiff ∧ ((v1.take 15).drop 8).take 4 = tagWave ∧ ((v1.take 15).drop 12).take 4 ≠ tagFmt) ∧
    (v1.take 4 = tagRiff ∧ (v1.drop 8).take 4 = tagWave ∧ (v1.drop 12).take 4 = tagFmt) ∧
    ((v1.take 19).length < 20 ∧ readWav (v1.take 19) = .bad 16 .fmtTruncated) ∧
    ((field32 (v1.set 16 15#8) 16).toNat < 16 ∧ readWav (v1.set 16 15#8) = .bad 20 .fmtTruncated) ∧
    ((v1.take 35).length < 20 + (field32 (v1.take 35) 16).toNat ∧ readWav (v1.take 35) = .bad 20 .fmtTruncated) := by
  decide

/-- Format records with one wrong field; then a missing `data` chunk, a skip past the end, and a cut `data` chunk. -/
theorem witness_ContainerRejections_chunks :
    readWav (streamOf 0#32 (formatPayload 3#16 1#16 4#32 4#32 1#16 8#16 []) [] []) = .bad 36 .notPcm ∧
    readWav (streamOf 0#32 (formatPayload 1#16 2#16 4#32 4#32 1#16 8#16 []) [] []) = .bad 36 .badChannels ∧
    readWav (streamOf 0#32 (formatPayload 1#16 1#16 4#32 4#32 1#16 16#16 []) [] []) = .bad 36 .badBitDepth ∧
    readWav (streamOf 0#32 (formatPayload 1#16 1#16 4#32 4#32 1#16 8#16 []) [] (tagData ++ [1#8, 0#8, 0#8])) =
      .bad 40 .dataChunkMissing ∧
    readWav (streamOf 0#32 (formatPayload 1#16 1#16 4#32 4#32 1#16 8#16 []) [] (tagFmt ++ le32 2#32 ++ [9#8])) =
      .bad 44 .dataChunkMissing ∧
    readWav (streamOf 0#32 (formatPayload 1#16 1#16 4#32 4#32 1#16 8#16 []) [] (tagData ++ le32 2#32 ++ [9#8])) =
      .bad 44 .dataTruncated := by decide

/-- Why a DECODE may not succeed: a failed read, a missing stream, a stream that does not fit, a busy region. -/
theorem witness_DecodeFailuresWriteNothing :
    { bench with env := { bench.env with readFails := [true] } }.drawReadFails.1 = true ∧
      cellGet bench.storage (7#32).toNat = none ∧ readWav v1 = .good 44 4#32 4#32 ∧
      bench.cfg.sampleMemBytes < (65533#32).toNat + (4#32).toNat ∧
      regionBusy (session 0#32 32768 false) 13 4 = true := by decide

/-- After V2a's ENCODE the stream of V1 stands in storage, and a DECODE of it fits beside a playing buffer. -/
theorem witness_DecodeOfEncodeIsTheBuffer :
    nextIs (exec (.encode 7#32 0#32 4#32 4#32) (withSamples 0 [100#8, 150#8, 75#8, 101#8] bench)) (fun t =>
      t.cmd.tx == (withSamples 0 [100#8, 150#8, 75#8, 101#8] bench).cmd.tx ++ [.ok] &&
      cellGet { session 0#32 32768 false with storage := [(7, v1)] }.storage 7 == cellGet t.storage 7) = true ∧
    44 + (4#32).toNat < 2 ^ 32 ∧ (session 0#32 32768 false).drawReadFails.1 = false ∧
    (20#32).toNat + (4#32).toNat ≤ (session 0#32 32768 false).cfg.sampleMemBytes ∧
    regionBusy (session 0#32 32768 false) 20 4 = false := by decide

end Sys2Proof.Tests
end

section
/-! The arithmetic of CAPTURE (41_capture.md): adding ticks (R107) and quantizing a reading (R110). -/

namespace Sys2Proof.Proofs.Capture
open Sys2Proof.Machine

/-- What the shift leaves of an `ADC_BITS`-bit reading fits a byte (R110). -/
theorem shiftedReading_lt {bits raw : Nat} (hbits : 8 ≤ bits) (hraw : raw < 2 ^ bits) :
    raw / 2 ^ (bits - 8) < 2 ^ 8 := by
  refine Nat.div_lt_of_lt_mul ?_
  rwa [← pow_add, Nat.sub_add_cancel hbits]

/-- Settles O46: the sum is reduced mod `2^TICK_BITS`, so it is below it. -/
theorem tickAddWraps : Obligations.TickAddWraps := by
  intro cfg t p
  exact ⟨rfl, tickAdd_lt cfg t p⟩

/-- Settles O49: the shifted reading fits a byte, so storing it in one loses nothing. -/
theorem quantizeKeepsTheTopByte : Obligations.QuantizeKeepsTheTopByte := by
  intro cfg raw hbits hraw
  have hbyte := shiftedReading_lt hbits hraw
  rw [quantize, BitVec.toNat_ofNat, Nat.mod_eq_of_lt hbyte]

end Sys2Proof.Proofs.Capture
end

section
/-! Frames (30_encoding.md sections 1, 2 and 4): decoding undoes encoding, and encoding undoes decoding. -/

namespace Sys2Proof.Proofs.Encoding

/-- The operands of an encoded instruction are read back at their offsets (R69, R71). -/
theorem operandsOf_encode (i : Instr) (rest : List Byte) : operandsOf i.opcode (encode i ++ rest) = i := by
  have fields (pre post : List Byte) (v : Word) : field32 (pre ++ (le32 v ++ post)) pre.length = v := by
    simpa using field32_append pre post v _ rfl
  have field1 (op : Byte) (a : Word) (post : List Byte) : field32 (op :: (le32 a ++ post)) 1 = a :=
    fields [op] post a
  have field5 (op : Byte) (a b : Word) (post : List Byte) : field32 (op :: (le32 a ++ (le32 b ++ post))) 5 = b :=
    fields (op :: le32 a) post b
  have field9 (op : Byte) (a b c : Word) (post : List Byte) :
      field32 (op :: (le32 a ++ (le32 b ++ (le32 c ++ post)))) 9 = c := fields (op :: (le32 a ++ le32 b)) post c
  cases i with
  | start base len sampleRate loop =>
    simp only [encode, operandBytes, operandsOf, Instr.opcode, List.cons_append, List.append_assoc, field1, field5,
      field9]
    rfl
  | capture dst sampleRate duration =>
    simp only [encode, operandBytes, operandsOf, Instr.opcode, List.cons_append, List.append_assoc, field1, field5,
      field9]
  | smooth base len alphaQ =>
    simp only [encode, operandBytes, operandsOf, Instr.opcode, List.cons_append, List.append_assoc, field1, field5,
      field9]
  | decode pathId dst =>
    simp only [encode, operandBytes, operandsOf, Instr.opcode, List.cons_append, List.append_assoc, field1, field5]
  | encode pathId base len sampleRate =>
    have field13 := fields (opcodeByte .encode :: (le32 pathId ++ (le32 base ++ le32 len))) rest sampleRate
    simp only [encode, operandBytes, operandsOf, Instr.opcode, List.cons_append, List.append_assoc, field1, field5,
      field9]
    exact congrArg _ (by simpa using field13)
  | stop => rfl
  | status => rfl
  | tick => rfl
  | cancel => rfl

/-- What the decoder does on a sequence whose first byte is an opcode's. -/
theorem decode_opcodeByte (o : Opcode) (bs : List Byte) : decode (opcodeByte o :: bs) =
    if (opcodeByte o :: bs).length < frameLength o then .incomplete
    else .instr (operandsOf o (opcodeByte o :: bs)) ((opcodeByte o :: bs).drop (frameLength o)) := by
  simp only [decode, opcodeOf_opcodeByte]

/-- Settles O1: the first byte names the operation, the operands are read back, the frame's length is dropped. -/
theorem decodeOfEncode : Obligations.DecodeOfEncode := by
  intro i rest
  have hlen : ¬ (encode i ++ rest).length < frameLength i.opcode := by simp [encode_length]
  have hdrop : (encode i ++ rest).drop (frameLength i.opcode) = rest := by
    rw [← encode_length, List.drop_left]
  have h := decode_opcodeByte i.opcode (operandBytes i ++ rest)
  rwa [← List.cons_append, show opcodeByte i.opcode :: operandBytes i = encode i from rfl, if_neg hlen, hdrop,
    operandsOf_encode] at h

/-- The bytes from an offset on, the first one apart. -/
theorem take_drop_byteAt {bs : List Byte} {off : Nat} (h : off < bs.length) (n : Nat) :
    (bs.drop off).take (n + 1) = byteAt bs off :: (bs.drop (off + 1)).take n := by
  rw [List.drop_eq_getElem_cons h, List.take_succ_cons, byteAt, List.getD_eq_getElem _ _ h]

/-- A whole field is the four bytes it was read from. -/
theorem le32_field32 {bs : List Byte} {off : Nat} (h : off + 4 ≤ bs.length) :
    le32 (field32 bs off) = (bs.drop off).take 4 := by
  rw [field32, le32_of_u32le, take_drop_byteAt (by omega), take_drop_byteAt (by omega), take_drop_byteAt (by omega),
    take_drop_byteAt (by omega), List.take_zero]

@[simp] theorem operandsOf_opcode (o : Opcode) (bs : List Byte) : (operandsOf o bs).opcode = o := by
  cases o <;> rfl

/-- The operands read from a frame encode to its bytes after the first. -/
theorem operandBytes_operandsOf (o : Opcode) (op : Byte) (bs : List Byte) (h : frameLength o ≤ (op :: bs).length) :
    operandBytes (operandsOf o (op :: bs)) = bs.take (frameLength o - 1) := by
  have word (off : Nat) (hoff : off + 5 ≤ (op :: bs).length) :
      le32 (field32 (op :: bs) (off + 1)) = (bs.drop off).take 4 := le32_field32 (bs := op :: bs) (by omega)
  cases o with
  | start =>
    simp only [frameLength] at h
    have last : [byteAt (op :: bs) 13] = (bs.drop 12).take 1 := by
      simp only [List.length_cons] at h
      rw [take_drop_byteAt (by omega)]
      rfl
    simp only [operandsOf, operandBytes, frameLength, last, word 0 (by omega), word 4 (by omega), word 8 (by omega),
      List.drop_zero, ← List.take_add]
  | capture =>
    simp only [frameLength] at h
    simp only [operandsOf, operandBytes, frameLength, word 0 (by omega), word 4 (by omega), word 8 (by omega),
      List.drop_zero, ← List.take_add]
  | smooth =>
    simp only [frameLength] at h
    simp only [operandsOf, operandBytes, frameLength, word 0 (by omega), word 4 (by omega), word 8 (by omega),
      List.drop_zero, ← List.take_add]
  | decode =>
    simp only [frameLength] at h
    simp only [operandsOf, operandBytes, frameLength, word 0 (by omega), word 4 (by omega), List.drop_zero,
      ← List.take_add]
  | encode =>
    simp only [frameLength] at h
    simp only [operandsOf, operandBytes, frameLength, word 0 (by omega), word 4 (by omega), word 8 (by omega),
      word 12 (by omega), List.drop_zero, ← List.take_add]
  | stop => rfl
  | status => rfl
  | tick => rfl
  | cancel => rfl

/-- A frame is the encoding of what the decoder reads from it. -/
theorem encode_operandsOf (o : Opcode) (bs : List Byte) (h : frameLength o ≤ (opcodeByte o :: bs).length) :
    encode (operandsOf o (opcodeByte o :: bs)) = (opcodeByte o :: bs).take (frameLength o) := by
  have hpos : frameLength o = frameLength o - 1 + 1 := by cases o <;> rfl
  rw [encode, operandsOf_opcode, operandBytes_operandsOf o _ bs h, hpos, List.take_succ_cons, Nat.add_sub_cancel]

/-- Settles O2: the bytes of the frame are the encoding, and the rest is what follows them. -/
theorem encodeOfDecode : Obligations.EncodeOfDecode := by
  intro bs i rest h
  cases bs with
  | nil => simp [decode] at h
  | cons op bs =>
    cases ho : opcodeOf op with
    | none => simp [decode, ho] at h
    | some o =>
      obtain rfl := opcodeByte_of_opcodeOf ho
      rw [decode_opcodeByte] at h
      split at h
      · cases h
      · rename_i hlen
        obtain ⟨rfl, rfl⟩ := Decoded.instr.inj h
        rw [encode_operandsOf o bs (not_lt.mp hlen), List.take_append_drop]

/-! The command port. -/

/-- Settles O3: the decoder reads the instruction back, and the port takes it only where it is a command. -/
theorem commandPortTakesCommandsOnly : Obligations.CommandPortTakesCommandsOnly := by
  intro i rest
  rw [decodeCommand, decodeOfEncode i rest]
  rfl

/-- The port answers "reserved" by the first byte alone: no opcode, or an event's. -/
theorem decodeCommand_reserved_iff (op : Byte) (rest : List Byte) : decodeCommand (op :: rest) = .reserved op ↔
    opcodeOf op = none ∨ opcodeOf op = some .tick ∨ opcodeOf op = some .cancel := by
  unfold decodeCommand
  cases ho : opcodeOf op with
  | none => simp [decode, ho]
  | some o =>
    obtain rfl := opcodeByte_of_opcodeOf ho
    rw [decode_opcodeByte]
    by_cases hl : (opcodeByte o :: rest).length < frameLength o
    · rw [if_pos hl]
      cases o <;> simp_all [frameLength]
    · rw [if_neg hl]
      cases o <;> simp [operandsOf, Instr.isCommand, byteAt]

/-- Settles O4: what is left is a check over the 256 first bytes. -/
theorem reservedFirstBytes : Obligations.ReservedFirstBytes := by
  intro op rest
  rw [decodeCommand_reserved_iff]
  revert op
  decide

/-- Settles O5: each frame evaluated. -/
theorem writtenFramesDecode : Obligations.WrittenFramesDecode := by
  unfold Obligations.WrittenFramesDecode
  decide

end Sys2Proof.Proofs.Encoding
end

section
/-! PBE's operations (43_playback.md): the checks and the outcome of START, what each TICK does, how STOP and CANCEL end a
session, and the defensive shutdown they share. -/

namespace Sys2Proof.Proofs.Playback
open Sys2Proof.Machine

/-! The defensive shutdown (R138). -/

/-- What the shutdown leaves when its two writes answer `r1` and `r2`. -/
def shutdownState (s : State) (r1 r2 : Bool) : State :=
  { s with
    timer := { s.timer with armed := if r1 then false else s.timer.armed }
    pwm := { s.pwm with duty := if r2 then s.cfg.neutral else s.pwm.duty }
    env := (s.drawn 2).env
    trace := { access := .write (.duty s.cfg.neutral), ok := r2 } :: { access := .write .disarm, ok := r1 } :: s.trace }

/-- Two answers of the oracle, read as results of writes. -/
theorem exists_writeResults (s : State) : ∃ r1 r2, s.faultsAhead 2 = [!r1, !r2] :=
  ⟨!s.drawFault.1, !s.drawFault.2.drawFault.1, by simp [State.faultsAhead]⟩

/-- A disarm with the oracle's answer read as its result (R159). -/
theorem hwWrite_disarm_of_answer {s : State} {r : Bool} (h : s.drawFault.1 = !r) : s.hwWrite .disarm = (r, { s with
    timer := { s.timer with armed := if r then false else s.timer.armed }
    env := s.drawFault.2.env
    trace := { access := .write .disarm, ok := r } :: s.trace }) := by
  cases r
  · exact State.hwWrite_of_fail _ h
  · exact State.hwWrite_of_ok _ h

/-- A duty write with the oracle's answer read as its result (R159). -/
theorem hwWrite_duty_of_answer {s : State} {r : Bool} (v : Nat) (h : s.drawFault.1 = !r) : s.hwWrite (.duty v) =
    (r, { s with
      pwm := { s.pwm with duty := if r then v else s.pwm.duty }
      env := s.drawFault.2.env
      trace := { access := .write (.duty v), ok := r } :: s.trace }) := by
  cases r
  · exact State.hwWrite_of_fail _ h
  · exact State.hwWrite_of_ok _ h

theorem defensiveShutdown_of_answers {s : State} {r1 r2 : Bool} (h : s.faultsAhead 2 = [!r1, !r2]) :
    s.defensiveShutdown = (r1, r2, shutdownState s r1 r2) := by
  obtain ⟨h1, h2⟩ : s.drawFault.1 = !r1 ∧ s.drawFault.2.drawFault.1 = !r2 := by simpa [State.faultsAhead] using h
  rw [State.defensiveShutdown, hwWrite_disarm_of_answer h1]
  dsimp only
  rw [hwWrite_duty_of_answer (r := r2)]
  · simp only [shutdownState, Prod.mk.injEq, true_and, State.mk.injEq, and_true]
    exact State.drawn_env_congr (t := s.drawFault.2) rfl 1
  · exact (State.drawFault_congr rfl).trans h2

/-- Settles O26: both writes in order, each with its answer. -/
theorem shutdownAttemptsBoth : Obligations.ShutdownAttemptsBoth :=
  fun _ _ _ h => defensiveShutdown_of_answers h

theorem takeFault_of_answers {s : State} {r1 r2 : Bool} (h : s.faultsAhead 2 = [!r1, !r2]) :
    s.takeFault = (shutdownState s r1 r2).setEngine .faulted := by
  rw [State.takeFault_eq, defensiveShutdown_of_answers h]

theorem teardown_of_answers {s : State} {r1 r2 : Bool} (h : s.faultsAhead 2 = [!r1, !r2]) :
    s.teardown = if r1 && r2 then (true, (shutdownState s r1 r2).setEngine .stopped)
      else (false, (shutdownState s r1 r2).setEngine .faulted) := by
  rw [State.teardown_eq, defensiveShutdown_of_answers h]

/-- What a fault entry leaves, whatever it starts from (R138, R144). -/
theorem takeFault_shutdownLeft (s : State) : shutdownLeft s.timer.armed s.pwm.duty s.takeFault :=
  ⟨s.defensiveShutdown.1, s.defensiveShutdown.2.1, s.trace, by simp [State.defensiveShutdown_trace],
    by simp [State.defensiveShutdown_timer], by simp [State.defensiveShutdown_pwm]⟩

/-- What a teardown leaves, whatever it starts from (R138, R145). -/
theorem teardown_shutdownLeft (s : State) : shutdownLeft s.timer.armed s.pwm.duty s.teardown.2 :=
  ⟨s.defensiveShutdown.1, s.defensiveShutdown.2.1, s.trace, by simp [State.defensiveShutdown_trace],
    by simp [State.defensiveShutdown_timer], by simp [State.defensiveShutdown_pwm]⟩

/-- Where the shutdown's two writes, the last two accesses, succeeded, the output is neutral and the timer disarmed. -/
theorem shutdownLeft_neutral {armed : Bool} {duty : Nat} {t : State} (h : shutdownLeft armed duty t)
    (hok : ∀ e ∈ t.trace.take 2, e.ok = true) : t.pwm.duty = t.cfg.neutral ∧ t.timer.armed = false := by
  obtain ⟨r1, r2, before, htrace, harmed, hduty⟩ := h
  obtain ⟨rfl, rfl⟩ : r2 = true ∧ r1 = true := by simpa [htrace] using hok
  exact ⟨by simpa using hduty, by simpa using harmed⟩

/-! START (43_playback.md sections 2 and 3). -/

/-- The cases of START: refused, held by the grace period, or begun (R133, R134, R137). -/
theorem execStart_cases (base len sampleRate : Word) (loop : Byte) (s : State) :
    (∃ r, startCheck base len sampleRate loop s = some r ∧
      exec (.start base len sampleRate loop) s = .next (s.respond r)) ∨
    (startCheck base len sampleRate loop s = none ∧ s.boot.graceDone = false ∧
      exec (.start base len sampleRate loop) s = .next (s.setFg (.startHeld base len sampleRate loop))) ∨
    (startCheck base len sampleRate loop s = none ∧ s.boot.graceDone = true ∧
      exec (.start base len sampleRate loop) s = .next (startSession base len sampleRate loop s)) := by
  simp only [exec, execStart]
  cases h : startCheck base len sampleRate loop s with
  | some r => exact .inl ⟨r, rfl, rfl⟩
  | none =>
    cases hg : s.boot.graceDone
    · exact .inr (.inl ⟨rfl, rfl, rfl⟩)
    · exact .inr (.inr ⟨rfl, rfl, rfl⟩)

/-- START's checks refuse with Busy exactly while Playing, and else with ArgumentError (R134). -/
theorem startCheck_answers (base len sampleRate : Word) (loop : Byte) (s : State) :
    (s.pbe.state = .playing ∧ startCheck base len sampleRate loop s = some .busy) ∨
    (s.pbe.state ≠ .playing ∧ startCheck base len sampleRate loop s = some .argumentError) ∨
    startCheck base len sampleRate loop s = none := by
  unfold startCheck
  by_cases hp : s.pbe.state = .playing
  · exact .inl ⟨hp, if_pos hp⟩
  · rw [if_neg hp]
    split_ifs <;> simp [hp]

/-- Settles O12: the checks pass only where no clause of the refusals applies. -/
theorem startRefusals : Obligations.StartRefusals := by
  intro base len sampleRate loop s
  have refused {r : Response} (h : startCheck base len sampleRate loop s = some r) :
      exec (.start base len sampleRate loop) s = .next (s.respond r) := by simp only [exec, execStart, h]
  rcases startCheck_answers base len sampleRate loop s with ⟨hp, h⟩ | ⟨hp, h⟩ | h
  · exact ⟨fun _ => refused h, fun hn => absurd hp hn⟩
  · exact ⟨fun hy => absurd hy hp, fun _ _ => refused h⟩
  · obtain ⟨hp, hl, hr, hm, hf⟩ := startCheck_eq_none.mp h
    refine ⟨fun hy => absurd hy hp, fun _ hbad => ?_⟩
    rcases hbad with hb | hb | hb | hb
    · exact absurd hl hb
    · exact absurd hb hr
    · omega
    · omega

/-- With nothing due and nothing arriving a step is the foreground's next micro-step (R58, R163). -/
theorem step_of_quiet {s : State} (h : s.quiet) : step s = foregroundStep s := by
  obtain ⟨hb, hp, hc⟩ := h
  simp [step, stepOnce, hb, boundaryStep, hp, hc]

/-- Settles O13: the checks pass, so the grace period alone decides. -/
theorem startHeldByTheGracePeriod : Obligations.StartHeldByTheGracePeriod := by
  intro base len sampleRate loop s hp hl hr hm hf
  have hcheck : startCheck base len sampleRate loop s = none := startCheck_eq_none.mpr ⟨hp, hl, hr, hm, hf⟩
  refine ⟨fun hg => ?_, fun hq hfg hg => ?_, fun hq hfg hg => ?_⟩
  · simp only [exec, execStart, hcheck, hg]
    rfl
  · simp [step_of_quiet hq, foregroundStep, hfg, startResume, hg]
  · have hidle : startCheck base len sampleRate loop (s.setFg .idle) = none := hcheck
    have hstart : exec (.start base len sampleRate loop) (s.setFg .idle) =
        .next (startSession base len sampleRate loop (s.setFg .idle)) := by
      simp [exec, execStart, hidle, hg]
    simp only [step_of_quiet hq, foregroundStep, hfg, startResume, hg, if_true]
    exact hstart.symm

/-- START with its checks passed and the grace period over. -/
theorem execStart_of_checked {base len sampleRate : Word} {loop : Byte} {s : State} (hp : s.pbe.state ≠ .playing)
    (hl : loop.extractLsb' 1 7 = 0#7) (hr : sampleRate ≠ 0#32) (hm : sampleRate.toNat ≤ s.cfg.timerMaxHz)
    (hf : base.toNat + len.toNat ≤ s.cfg.sampleMemBytes) (hg : s.boot.graceDone = true) :
    exec (.start base len sampleRate loop) s = .next (startSession base len sampleRate loop s) := by
  simp [exec, execStart, startCheck_eq_none.mpr ⟨hp, hl, hr, hm, hf⟩, hg]

/-- Settles O14: the three writes succeed, so START begins the session. -/
theorem startBeginsASession : Obligations.StartBeginsASession := by
  intro base len sampleRate loop s hp hl hr hm hf hg hok
  rw [execStart_of_checked hp hl hr hm hf hg]
  rcases startSession_cases base len sampleRate loop s with ⟨-, e⟩ | ⟨hno, -⟩
  · rw [e]; rfl
  · exact absurd hok hno

/-- START's `try` as a match on its result, for a known failure. -/
theorem startSession_of_failed {base len sampleRate : Word} {loop : Byte} {s u : State}
    (h : (s.openCursor base len (loopBit loop)).attempt
      [.freq s.cfg.carrierHz, .duty s.cfg.neutral, .arm sampleRate] = (false, u)) :
    startSession base len sampleRate loop s = u.takeFault.respond .hardwareFault := by
  rw [startSession, h]

/-- Settles O15: the first of the three writes that fails fixes what was written before it; the shutdown follows with the
next two answers. -/
theorem startFailureTakesTheFault : Obligations.StartFailureTakesTheFault := by
  intro base len sampleRate loop s hp hl hr hm hf hg hno
  rw [execStart_of_checked hp hl hr hm hf hg]
  -- the answers after the first `k`, as the shutdown's results
  have results (k : Nat) (u : State) (hu : u.env = (s.drawn k).env) : ∃ r1 r2, u.faultsAhead 2 = [!r1, !r2] ∧
      s.faultsAhead (k + 2) = s.faultsAhead k ++ [!r1, !r2] := by
    obtain ⟨r1, r2, h⟩ := exists_writeResults u
    exact ⟨r1, r2, h, by rw [State.faultsAhead_add, ← State.faultsAhead_congr hu, h]⟩
  set a := s.openCursor base len (loopBit loop) with ha
  rcases State.attempt_cons_cases a (.freq s.cfg.carrierHz) [.duty s.cfg.neutral, .arm sampleRate] with
    ⟨d1, e1⟩ | ⟨d1, e1⟩
  swap
  · obtain ⟨r1, r2, hr, hs⟩ := results 1 (a.drawFault.2.note (.write (.freq s.cfg.carrierHz)) false) rfl
    refine ⟨r1, r2, _, _, _, .inl ⟨?_, rfl, rfl, rfl⟩, ?_⟩
    · rw [hs]; exact congrArg (· :: _) d1
    · rw [startSession_of_failed e1, takeFault_of_answers hr]; rfl
  set b := (a.drawFault.2.note (.write (.freq s.cfg.carrierHz)) true).applyWrite (.freq s.cfg.carrierHz) with hb
  replace d1 : s.drawFault.1 = false := d1
  rcases State.attempt_cons_cases b (.duty s.cfg.neutral) [.arm sampleRate] with ⟨d2, e2⟩ | ⟨d2, e2⟩
  swap
  · replace d2 : s.drawFault.2.drawFault.1 = true := d2
    obtain ⟨r1, r2, hr, hs⟩ := results 2 (b.drawFault.2.note (.write (.duty s.cfg.neutral)) false) rfl
    refine ⟨r1, r2, _, _, _, .inr (.inl ⟨?_, rfl, rfl, rfl⟩), ?_⟩
    · rw [hs]; simp [State.faultsAhead, d1, d2]
    · rw [startSession_of_failed (e1.trans e2), takeFault_of_answers hr]; rfl
  set c := (b.drawFault.2.note (.write (.duty s.cfg.neutral)) true).applyWrite (.duty s.cfg.neutral) with hc
  replace d2 : s.drawFault.2.drawFault.1 = false := d2
  rcases State.attempt_cons_cases c (.arm sampleRate) [] with ⟨d3, e3⟩ | ⟨d3, e3⟩
  · refine absurd ?_ hno
    replace d3 : s.drawFault.2.drawFault.2.drawFault.1 = false := d3
    exact (State.nextOk_succ _ _).mpr ⟨d1, (State.nextOk_succ _ _).mpr ⟨d2, (State.nextOk_succ _ _).mpr ⟨d3, rfl⟩⟩⟩
  · replace d3 : s.drawFault.2.drawFault.2.drawFault.1 = true := d3
    obtain ⟨r1, r2, hr, hs⟩ := results 3 (c.drawFault.2.note (.write (.arm sampleRate)) false) rfl
    refine ⟨r1, r2, _, _, _, .inr (.inr ⟨?_, rfl, rfl, rfl⟩), ?_⟩
    · rw [hs]; simp [State.faultsAhead, d1, d2, d3]
    · rw [startSession_of_failed ((e1.trans e2).trans e3), takeFault_of_answers hr]; rfl

/-! TICK (43_playback.md section 4). -/

/-- Settles O16: the only case of TICK in which the hypotheses can hold. -/
theorem tickWritesTheSample : Obligations.TickWritesTheSample := by
  intro s hp hloop hlt hfit hok
  rcases execTick_cases s with ⟨hn, -⟩ | ⟨-, -, -, -, -, e⟩ | ⟨-, he, hl, -⟩ | ⟨-, h, -⟩ | ⟨-, -, h, -⟩
  · exact absurd hp hn
  · exact e
  · exact absurd (hloop he) (by simp [hl])
  · exact absurd hlt (BitVec.not_lt.mpr (h hok))
  · omega

/-- TICK at the end of a buffer that does not loop. -/
theorem execTick_at_end {s : State} (hp : s.pbe.state = .playing) (he : s.pbe.position = s.pbe.bufLen)
    (hl : s.pbe.loop = false) : exec .tick s = .next (tickFinish s.ackTick) := by
  simp [exec, execTick, hp, tickPlaying, he, hl]

/-- Settles O17: both writes of the finish succeed. -/
theorem tickFinishesTheBuffer : Obligations.TickFinishesTheBuffer := by
  intro s hp he hl hok
  rw [execTick_at_end hp he hl]
  rcases tickFinish_cases s with ⟨-, e⟩ | ⟨hno, -⟩
  · rw [e]; rfl
  · exact absurd hok hno

theorem execTick_of_not_playing {s : State} (hp : s.pbe.state ≠ .playing) : exec .tick s = .next s.ackTick := by
  simp [exec, execTick, hp]

/-- Settles O18. -/
theorem tickOutsidePlayingIsANoOp : Obligations.TickOutsidePlayingIsANoOp :=
  fun _ hp => execTick_of_not_playing hp

/-- Part of a history added in front is determined by the whole. -/
theorem added_eq {s t : State} {added added' : List AccessEvent} (h : t.trace = added ++ s.trace)
    (h' : t.trace = added' ++ s.trace) : added = added' :=
  List.append_cancel_right (h.symm.trans h')

/-- A TICK of a session in which an access failed took the fault. -/
theorem tickFailed_of_failed_access {s t : State} {added : List AccessEvent} (hp : s.pbe.state = .playing)
    (ht : exec .tick s = .next t) (hadded : t.trace = added ++ s.trace) (hfail : ∃ e ∈ added, e.ok = false) :
    ∃ u, TickFailed s u ∧ t = u.takeFault := by
  obtain ⟨e, he, hbad⟩ := hfail
  rcases execTick_cases s with ⟨hn, h⟩ | ⟨-, -, -, -, -, h⟩ | ⟨-, -, -, -, h⟩ | ⟨-, -, u, hu, h⟩ | ⟨-, -, -, h⟩ <;>
    rw [h] at ht
  · exact absurd hp hn
  · cases ht
    obtain rfl := added_eq hadded
      (added' := [okWrite _, { access := .fetch (nextIndex s), ok := true }]) rfl
    simp only [List.mem_cons, List.not_mem_nil, or_false] at he
    rcases he with rfl | rfl <;> cases hbad
  · cases ht
    obtain rfl := added_eq hadded (added' := [okWrite _, okWrite .disarm]) rfl
    simp only [List.mem_cons, List.not_mem_nil, or_false] at he
    rcases he with rfl | rfl <;> cases hbad
  · exact ⟨u, hu, (Host.Outcome.next.inj ht).symm⟩
  · cases ht

theorem keepsData_takeFault {s u : State} (h : keepsData s u) : keepsData s u.takeFault := by
  simpa [keepsData] using h

/-- Settles O19: the fault entry from where the access failed. -/
theorem tickFailureTakesTheFault : Obligations.TickFailureTakesTheFault := by
  intro s t added hp ht hadded hfail
  obtain ⟨u, hu, rfl⟩ := tickFailed_of_failed_access hp ht hadded hfail
  have hleft := takeFault_shutdownLeft u
  rw [hu.pwm] at hleft
  refine ⟨by rw [State.takeFault_pbe, hu.pbe], ?_, ?_, ?_, ?_, keepsData_takeFault hu.data, by simp [hu.fg],
    by simp [hu.cmd], by simp [hu.cancel]⟩
  · rcases hu.armed with harmed | ⟨he, hl, harmed, htrace⟩ <;> rw [harmed] at hleft
    · exact .inl hleft
    · refine .inr ⟨he, hl, ?_, hleft⟩
      obtain rfl := added_eq hadded (added' := [_, _, failedWrite (.duty s.cfg.neutral), okWrite .disarm]) (by
        rw [State.takeFault_trace, State.defensiveShutdown_trace, htrace]; rfl)
      simp
  · simp [State.defensiveShutdown_timer, hu.rate]
  · simp [State.defensiveShutdown_timer, hu.pending]
  · simp [State.defensiveShutdown_pwm, hu.pwm]

/-- Settles O27: from what the fault entry leaves. -/
theorem faultInsideTickIsContained : Obligations.FaultInsideTickIsContained := by
  intro s t added hp ht hadded hfail
  obtain ⟨u, hu, rfl⟩ := tickFailed_of_failed_access hp ht hadded hfail
  refine ⟨by simp, fun hok => ?_⟩
  have hcfg : u.takeFault.cfg = s.cfg := (keepsData_takeFault hu.data).1
  exact hcfg ▸ shutdownLeft_neutral (takeFault_shutdownLeft u) hok

/-- Settles O20: there is no sample 0, so the fetch fails before the oracle is asked. -/
theorem tickOnAnEmptyLoopFaults : Obligations.TickOnAnEmptyLoopFaults := by
  intro s hp hlen hpos hl
  have htick : exec .tick s = tickAdvance (s.ackTick.setPosition 0#32) := by
    simp [exec, execTick, hp, tickPlaying, hlen, hpos, hl]
  have hempty : (s.ackTick.setPosition 0#32).pbe.bufLen ≤ (s.ackTick.setPosition 0#32).pbe.position := by simp [hlen]
  rcases tickAdvance_cases (s.ackTick.setPosition 0#32) with ⟨-, e⟩ | ⟨h, -⟩ | ⟨h, -⟩ | ⟨h, -⟩
  · set u := (s.ackTick.setPosition 0#32).note (.fetch (s.ackTick.setPosition 0#32).pbe.position) false
    obtain ⟨r1, r2, hr⟩ := exists_writeResults u
    rw [takeFault_of_answers hr] at e
    refine ⟨_, htick.trans e, ?_, rfl, r1, r2, rfl⟩
    show ({ s.pbe with position := 0#32, state := .faulted } : Pbe) = _
    rw [← hpos]
  all_goals exact absurd h (BitVec.not_lt.mpr hempty)

/-- Settles O21: in no case does TICK write more than the engine state, the cursor's position, the duty and the armed and
pending bits. -/
theorem tickWritesOnlyItsOwn : Obligations.TickWritesOnlyItsOwn := by
  intro s t ht
  rcases execTick_cases s with ⟨-, h⟩ | ⟨-, -, -, -, -, h⟩ | ⟨-, -, -, -, h⟩ | ⟨-, -, u, hu, h⟩ | ⟨-, -, -, h⟩ <;>
    rw [h] at ht <;> cases ht
  · simp [keepsData]
  · simp [keepsData, sampledState]
  · simp [keepsData, finishedState]
  · refine ⟨keepsData_takeFault hu.data, by simp [State.defensiveShutdown_pwm, hu.pwm],
      by simp [State.defensiveShutdown_timer, hu.rate], by simp [hu.pbe], by simp [hu.pbe], by simp [hu.pbe],
      by simp [hu.fg], by simp [hu.cmd], by simp [hu.cancel], by simp [State.defensiveShutdown_timer, hu.pending], ?_⟩
    rcases hu.armed with harmed | ⟨-, -, harmed, -⟩ <;> simp +contextual [State.defensiveShutdown_timer, harmed]

/-! STOP, STATUS and CANCEL (43_playback.md section 5). -/

theorem execStop_of_playing {s : State} (hp : s.pbe.state = .playing) : exec .stop s =
    .next (s.teardown.2.respond (if s.teardown.1 then .ok else .hardwareFault)) := by
  simp only [exec, execStop, if_pos hp]
  rcases s.teardown with ⟨b, u⟩
  cases b <;> rfl

theorem execStop_of_not_playing {s : State} (hp : s.pbe.state ≠ .playing) : exec .stop s = .next (s.respond .ok) := by
  simp [exec, execStop, hp]

theorem execCancel_of_playing {s : State} (hp : s.pbe.state = .playing) : exec .cancel s =
    .next ((s.ackCancel.setFg .idle).teardown.2.respond .interrupted) := by
  simp [exec, execCancel, hp]

theorem execCancel_of_not_playing {s : State} (hp : s.pbe.state ≠ .playing) : exec .cancel s =
    .next ((s.ackCancel.setFg .idle).respond .interrupted) := by
  simp [exec, execCancel, hp]

/-- Settles O22: the teardown with each pair of results. -/
theorem stopEndsTheSession : Obligations.StopEndsTheSession := by
  intro s r1 r2 hp h
  rw [execStop_of_playing hp, teardown_of_answers h]
  cases r1 <;> cases r2 <;> rfl

/-- Settles O23. -/
theorem stopOutsidePlayingIsANoOp : Obligations.StopOutsidePlayingIsANoOp :=
  fun _ hp => execStop_of_not_playing hp

/-- Settles O25: the signal taken and the foreground idle, then the teardown with each pair of results. -/
theorem cancelTearsDown : Obligations.CancelTearsDown := by
  intro s
  refine ⟨fun hp => execCancel_of_not_playing hp, fun r1 r2 hp h => ?_⟩
  have h' : (s.ackCancel.setFg .idle).faultsAhead 2 = [!r1, !r2] := h
  rw [execCancel_of_playing hp, teardown_of_answers h']
  cases r1 <;> cases r2 <;> rfl

/-- The bytes of a word, lowest first, as bit fields (R10). -/
theorem le32_eq_fields (v : Word) :
    le32 v = [v.extractLsb' 0 8, v.extractLsb' 8 8, v.extractLsb' 16 8, v.extractLsb' 24 8] := by
  simp [le32, BitVec.extractLsb', Nat.shiftRight_eq_div_pow]

/-- Settles O24: STATUS only responds, and each response's code and payload are written out. -/
theorem statusAnswersTheState : Obligations.StatusAnswersTheState := by
  refine ⟨fun _ => rfl, ?_, ?_, ?_, ?_, rfl, rfl, rfl, rfl, rfl, rfl, rfl⟩
  · intro state
    cases state <;> rfl
  · intro len rate
    simp [Response.bytes, Response.code, Response.payload, le32_eq_fields]
  · intro count
    simp [Response.bytes, Response.code, Response.payload, le32_eq_fields]
  · intro e
    cases e <;> rfl

end Sys2Proof.Proofs.Playback
end

section
/-! One step: what runs at a boundary, what arrives there, and reset (20_memory.md section 6, 60_exceptions.md sections 3 to
5, 70_reset_and_hazards.md section 1). -/

namespace Sys2Proof.Proofs.Boundary
open Sys2Proof.Machine Sys2Proof.Proofs.Playback Sys2Proof.Proofs.Encoding

theorem foregroundStep_of_idle {s : State} (h : s.fg = .idle) : foregroundStep s = serveCommand s := by
  simp only [foregroundStep, h]

/-- Settles O6: nothing else is due, so the idle foreground takes the frame. -/
theorem stepRunsTheFrame : Obligations.StepRunsTheFrame := by
  intro s i rest hq hfg hdec
  rw [step_of_quiet hq, foregroundStep_of_idle hfg, serveCommand, hdec]
  rfl

/-- Settles O7: the port answers the byte, or waits. -/
theorem stepAtReservedOrIncompleteFrame : Obligations.StepAtReservedOrIncompleteFrame := by
  intro s hq hfg
  rw [step_of_quiet hq, foregroundStep_of_idle hfg, serveCommand]
  refine ⟨fun op rest hrx hop => ?_, fun hdec => by rw [hdec]⟩
  have hdec : decodeCommand s.cmd.rx = .reserved op := hrx ▸ (reservedFirstBytes op rest).mpr hop
  rw [hdec, show rest = s.cmd.rx.drop 1 by rw [hrx]; rfl]
  rfl

/-- Settles O8: the order of the boundary's two tests. -/
theorem tickBeforeCancelBeforeForeground : Obligations.TickBeforeCancelBeforeForeground := by
  intro s
  exact ⟨fun hp => by simp [boundaryStep, hp], fun hp hc => by simp [boundaryStep, hp, hc],
    fun hp hc => by simp [boundaryStep, hp, hc], fun hb => by simp [step, stepOnce, hb]⟩

/-- What arrives, each latch written as its own choice. -/
theorem absorb_eq (s : State) (a : Arrivals) : s.absorb a = { s with
    timer := { s.timer with pending := if a.period ∧ s.timer.armed then true else s.timer.pending }
    cancelPending := if a.cancel then true else s.cancelPending
    boot := { graceDone := if a.grace then true else s.boot.graceDone }
    cmd := { s.cmd with rx := s.cmd.rx ++ a.bytes } } := by
  have hp : (s.timer.pending || (a.period && s.timer.armed)) =
      if a.period ∧ s.timer.armed then true else s.timer.pending := by
    cases a.period <;> cases s.timer.armed <;> simp
  have hc : (s.cancelPending || a.cancel) = if a.cancel then true else s.cancelPending := by
    cases a.cancel <;> simp
  have hg : (s.boot.graceDone || a.grace) = if a.grace then true else s.boot.graceDone := by
    cases a.grace <;> simp
  rw [State.absorb, hp, hc, hg]

/-- The held request, written as a choice. -/
theorem holdRequest_eq (t : State) (during : Bool) (armed : Bool) :
    t.holdRequest (during && (armed || t.timer.armed)) = { t with timer := { t.timer with
      pending := if during ∧ (armed ∨ t.timer.armed) then true else t.timer.pending } } := by
  have h : (t.timer.pending || (during && (armed || t.timer.armed))) =
      if during ∧ (armed ∨ t.timer.armed) then true else t.timer.pending := by
    cases during <;> cases armed <;> cases t.timer.armed <;> simp
  rw [State.holdRequest, h]

/-- Settles O9: the arrivals are absorbed, what is due runs, and a period during it is held. -/
theorem arrivalsAtABoundary : Obligations.ArrivalsAtABoundary := by
  intro s a later hb
  simp only [step, stepOnce, hb, boundaryStepDuring, absorb_eq]
  generalize boundaryStep _ = o
  cases o with
  | next t => simp only [holdRequest_eq]
  | fault f => rfl
  | refused r => rfl

theorem step_of_reset {s : State} {later : List Boundary} (h : s.env.boundaries = .reset :: later) :
    step s = .next { s with env := { s.env with boundaries := later } }.applyReset := by
  simp only [step, stepOnce, h]

/-- Settles O10. -/
theorem resetIsAStepOfItsOwn : Obligations.ResetIsAStepOfItsOwn := by
  intro s later h
  exact ⟨_, step_of_reset h, rfl, rfl, rfl, rfl, rfl, rfl, rfl, rfl, rfl, rfl, rfl, fun _ => rfl⟩

/-- Settles O11. -/
theorem resetValues : Obligations.ResetValues :=
  ⟨rfl, rfl, rfl, rfl, rfl, rfl, rfl, rfl, rfl, fun _ => rfl⟩

end Sys2Proof.Proofs.Boundary
end

section
/-! What a step does to PBE and its devices, said once, and what follows for every step: faults, the neutral output, the
engine's transitions (43_playback.md sections 1 and 6, 10_state.md section 8). -/

namespace Sys2Proof.Proofs.Effects
open Sys2Proof.Machine Sys2Proof.Proofs.Playback Sys2Proof.Proofs.Boundary

/-- The history has grown, by accesses that all succeeded. -/
def GrewOk (s t : State) : Prop :=
  ∃ added, t.trace = added ++ s.trace ∧ ∀ e ∈ added, e.ok = true

/-- The checks a session was begun under, or the held START that began it. -/
def startAllowed (s : State) (base len sampleRate : Word) (loop : Byte) : Prop :=
  heldStartChecked s base len sampleRate loop ∨ s.fg = .startHeld base len sampleRate loop

/-- What one micro-step, TICK or CANCEL does to PBE, the timer's armed bit, the PWM channel and the history. -/
inductive PlaybackEffect (s t : State) : Prop where
  /-- Nothing but accesses that succeeded. -/
  | kept (pbe : t.pbe = s.pbe) (armed : t.timer.armed = s.timer.armed) (pwm : t.pwm = s.pwm) (history : GrewOk s t)
  /-- A session begins (R133). -/
  | started (base len sampleRate : Word) (loop : Byte) (allowed : startAllowed s base len sampleRate loop)
      (pbe : t.pbe = { state := .playing, bufBase := base, bufLen := len, position := 0#32, loop := loopBit loop })
      (armed : t.timer.armed = true) (duty : t.pwm.duty = s.cfg.neutral) (history : GrewOk s t)
  /-- A TICK writes sample `i` (R141). -/
  | sampled (was : s.pbe.state = .playing) (i : Word) (inside : i < s.pbe.bufLen)
      (pbe : t.pbe = { s.pbe with position := i + 1#32 }) (armed : t.timer.armed = s.timer.armed) (b : Byte)
      (duty : t.pwm.duty = dutyOf s.cfg b) (history : GrewOk s t)
  /-- The session ends in state `e`, both writes done (R143, R145, R147). -/
  | ended (was : s.pbe.state = .playing) (e : Engine) (state : e = .finished ∨ e = .stopped)
      (pbe : t.pbe = { s.pbe with state := e }) (armed : t.timer.armed = false) (duty : t.pwm.duty = s.cfg.neutral)
      (history : GrewOk s t)
  /-- Faulted after a defensive shutdown (R136, R144, R145, R147). -/
  | faulted (state : t.pbe.state = .faulted) (armed : Bool) (duty : Nat)
      (before : duty = s.pwm.duty ∨ duty = s.cfg.neutral) (left : shutdownLeft armed duty t)
      (history : ∃ added, t.trace = added ++ s.trace)

theorem GrewOk.refl (s : State) : GrewOk s s := ⟨[], rfl, by simp⟩

theorem GrewOk.of_cons {s t : State} {e : AccessEvent} (h : t.trace = e :: s.trace) (he : e.ok = true) : GrewOk s t :=
  ⟨[e], h, by simpa using he⟩

/-- What an effect is stated about is the same in two states. -/
def SameView (s s' : State) : Prop :=
  s.pbe = s'.pbe ∧ s.timer.armed = s'.timer.armed ∧ s.pwm = s'.pwm ∧ s.trace = s'.trace ∧ s.cfg = s'.cfg ∧ s.fg = s'.fg

/-- An effect does not see more of the states than it is stated about. -/
theorem PlaybackEffect.congr {s s' t t' : State} (h : PlaybackEffect s t) (hs : SameView s s') (ht : SameView t t') :
    PlaybackEffect s' t' := by
  rcases s with ⟨cfg, pbe, ⟨armed, rate, pending⟩, pwm⟩
  rcases t with ⟨cfg', pbe', ⟨armed', rate', pending'⟩, pwm'⟩
  simp only [SameView] at hs ht
  obtain ⟨rfl, rfl, rfl, rfl, rfl, rfl⟩ := hs
  obtain ⟨rfl, rfl, rfl, rfl, rfl, rfl⟩ := ht
  cases h with
  | kept h1 h2 h3 h4 => exact .kept h1 h2 h3 h4
  | started b l r lp h1 h2 h3 h4 h5 => exact .started b l r lp h1 h2 h3 h4 h5
  | sampled h1 i h2 h3 h4 b h5 h6 => exact .sampled h1 i h2 h3 h4 b h5 h6
  | ended h1 e h2 h3 h4 h5 h6 => exact .ended h1 e h2 h3 h4 h5 h6
  | faulted h1 a d h2 h3 h4 => exact .faulted h1 a d h2 h3 h4

/-- A response after an effect does not show in it. -/
theorem PlaybackEffect.respond {s t : State} (r : Response) (h : PlaybackEffect s t) : PlaybackEffect s (t.respond r) :=
  h.congr ⟨rfl, rfl, rfl, rfl, rfl, rfl⟩ ⟨rfl, rfl, rfl, rfl, rfl, rfl⟩

theorem PlaybackEffect.refl (s : State) : PlaybackEffect s s := .kept rfl rfl rfl (.refl s)

/-- What keeps PBE and the devices has no effect on them. -/
theorem PlaybackEffect.of_keepsPlayback {s t : State} (h : keepsPlayback s t) : PlaybackEffect s t := by
  obtain ⟨h1, h2, h3, h4⟩ := h
  exact .kept h1 (by rw [h2]) h3 ⟨[], h4, by simp⟩

/-- The shutdown's part of the history, newest first (R138). -/
def shutdownHistory (s : State) : List AccessEvent :=
  [{ access := .write (.duty s.cfg.neutral), ok := s.defensiveShutdown.2.1 },
    { access := .write .disarm, ok := s.defensiveShutdown.1 }]

theorem takeFault_history (s : State) : s.takeFault.trace = shutdownHistory s ++ s.trace :=
  State.defensiveShutdown_trace s

theorem teardown_history (s : State) : s.teardown.2.trace = shutdownHistory s ++ s.trace := by
  rw [State.teardown_trace]
  exact State.defensiveShutdown_trace s

/-- The fault entry from a state whose history goes on from `s`. -/
theorem PlaybackEffect.takeFault {s u : State} (hduty : u.pwm.duty = s.pwm.duty ∨ u.pwm.duty = s.cfg.neutral)
    (history : ∃ added, u.trace = added ++ s.trace) : PlaybackEffect s u.takeFault := by
  obtain ⟨added, h⟩ := history
  exact .faulted (by simp) _ _ hduty (takeFault_shutdownLeft u)
    ⟨shutdownHistory u ++ added, by rw [takeFault_history, h, List.append_assoc]⟩

/-- A teardown of a session (R145, R147). -/
theorem PlaybackEffect.teardown {s u : State} (hp : s.pbe.state = .playing) (hpbe : u.pbe = s.pbe)
    (hpwm : u.pwm = s.pwm) (hcfg : u.cfg = s.cfg) (htrace : u.trace = s.trace) : PlaybackEffect s u.teardown.2 := by
  have history : u.teardown.2.trace = shutdownHistory u ++ s.trace := htrace ▸ teardown_history u
  by_cases hok : (u.defensiveShutdown.1 && u.defensiveShutdown.2.1) = true
  · obtain ⟨h1, h2⟩ := Bool.and_eq_true_iff.mp hok
    refine .ended hp .stopped (.inr rfl) (by simp [h1, h2, hpbe]) ?_ ?_ ⟨_, history, by simp [shutdownHistory, h1, h2]⟩
    · simp [State.defensiveShutdown_timer, h1]
    · simp [State.defensiveShutdown_pwm, h2, hcfg]
  · exact .faulted (by simp [hok]) _ _ (.inl (by rw [hpwm])) (teardown_shutdownLeft u) ⟨_, history⟩

/-! The effect of each operation. -/

/-- START past its checks, the foreground's progress being set to `f` before (R133, R136, R137). -/
theorem startSession_effect {base len sampleRate : Word} {loop : Byte} {s : State} (f : FgOp)
    (allowed : startAllowed s base len sampleRate loop) :
    PlaybackEffect s (startSession base len sampleRate loop (s.setFg f)) := by
  rcases startSession_cases base len sampleRate loop (s.setFg f) with ⟨-, e⟩ | ⟨-, u, hu, e⟩ <;> rw [e]
  · exact .started base len sampleRate loop allowed rfl rfl rfl ⟨[_, _, _], rfl, by simp⟩
  · obtain ⟨w, before, htrace⟩ := hu.history
    exact (PlaybackEffect.takeFault (s := s) hu.duty ⟨_ :: before, htrace⟩).respond _

theorem execTick_effect {s t : State} (h : exec .tick s = .next t) : PlaybackEffect s t := by
  rcases execTick_cases s with ⟨-, e⟩ | ⟨hp, -, hlt, -, -, e⟩ | ⟨hp, -, -, -, e⟩ | ⟨-, -, u, hu, e⟩ | ⟨-, -, -, e⟩ <;>
    rw [e] at h <;> cases h
  · exact .kept rfl rfl rfl (.refl s)
  · exact .sampled hp _ hlt rfl rfl _ rfl ⟨[_, _], rfl, by simp⟩
  · exact .ended hp .finished (.inl rfl) rfl rfl rfl ⟨[_, _], rfl, by simp⟩
  · obtain ⟨a, before, htrace⟩ := hu.history
    exact .takeFault (.inl (by rw [hu.pwm])) ⟨_ :: before, htrace⟩

theorem captureSetup_effect (dst sampleRate duration : Word) (s : State) :
    PlaybackEffect s (captureSetup dst sampleRate duration s) := by
  rw [captureSetup_eq]
  split <;> exact .kept rfl rfl rfl (.of_cons rfl rfl)

theorem execSmooth_keepsPlayback {base len alphaQ : Word} {s t : State} (h : exec (.smooth base len alphaQ) s = .next t) :
    keepsPlayback s t := by
  rcases execSmooth_cases base len alphaQ s with ⟨r, -, e⟩ | ⟨-, -, e⟩ | ⟨-, -, e⟩ <;>
    obtain rfl := Host.Outcome.next.inj (e.symm.trans h)
  · exact ⟨rfl, rfl, rfl, rfl⟩
  · exact ⟨rfl, rfl, rfl, rfl⟩
  · exact (smoothBuffer_frame base len (alphaOf s.cfg alphaQ) s).1.playback

/-- DECODE touches no more than sample memory, its working register, the descriptor and the response (R91, R97). -/
theorem execDecode_frame {pathId dst : Word} {s t : State} (h : exec (.decode pathId dst) s = .next t) :
    DataFrame s t ∧ t.storage = s.storage ∧ t.flt = s.flt := by
  have refused (off : Nat) (r : Response) : DataFrame s ((s.drawReadFails.2.setOffset off).respond r) :=
    ⟨⟨rfl, rfl, rfl, rfl⟩, rfl, rfl, rfl, rfl, rfl⟩
  rcases execDecode_cases pathId dst s with
    ⟨-, e⟩ | ⟨stream, -, ⟨off, _, -, e⟩ | ⟨off, _, _, r, -, -, e⟩ | ⟨off, rate, count, -, -, e⟩⟩ <;>
    obtain rfl := Host.Outcome.next.inj (e.symm.trans h)
  · exact ⟨⟨⟨rfl, rfl, rfl, rfl⟩, rfl, rfl, rfl, rfl, rfl⟩, rfl, rfl⟩
  · exact ⟨refused off _, rfl, rfl⟩
  · exact ⟨refused off r, rfl, rfl⟩
  · obtain ⟨hframe, hst, hflt, -⟩ := decodeCopy_frame stream off rate count dst s.drawReadFails.2
    exact ⟨⟨hframe.playback, hframe.cfg, hframe.cap, hframe.boot, hframe.fg, hframe.cancel⟩, hst, hflt⟩

/-- ENCODE touches no more than storage, the descriptor and the response (R98, R101). -/
theorem execEncode_frame {pathId base len sampleRate : Word} {s t : State}
    (h : exec (.encode pathId base len sampleRate) s = .next t) :
    DataFrame s t ∧ t.sm = s.sm ∧ t.flt = s.flt ∧ t.wvc = s.wvc := by
  rcases execEncode_cases pathId base len sampleRate s with ⟨-, e⟩ | ⟨-, s1, hs1, e⟩ <;>
    obtain rfl := Host.Outcome.next.inj (e.symm.trans h)
  · exact ⟨⟨⟨rfl, rfl, rfl, rfl⟩, rfl, rfl, rfl, rfl, rfl⟩, rfl, rfl, rfl⟩
  · have hframe : DataFrame s s1 := by
      rw [hs1]
      exact ⟨⟨rfl, rfl, rfl, rfl⟩, rfl, rfl, rfl, rfl, rfl⟩
    have hrest : s1.sm = s.sm ∧ s1.flt = s.flt ∧ s1.wvc = s.wvc := by
      rw [hs1]
      exact ⟨rfl, rfl, rfl⟩
    obtain ⟨hplay, hcfg, hcap, hboot, hfg, hcancel⟩ := hframe
    split <;> exact ⟨⟨hplay, hcfg, hcap, hboot, hfg, hcancel⟩, hrest⟩

theorem exec_effect {i : Instr} {s t : State} (h : exec i s = .next t) : PlaybackEffect s t := by
  cases i with
  | start base len sampleRate loop =>
    rcases execStart_cases base len sampleRate loop s with ⟨r, -, e⟩ | ⟨-, -, e⟩ | ⟨hc, -, e⟩ <;> rw [e] at h <;> cases h
    · exact (PlaybackEffect.refl s).respond r
    · exact .kept rfl rfl rfl (.refl s)
    · exact startSession_effect s.fg (.inl hc)
  | stop =>
    by_cases hp : s.pbe.state = .playing
    · rw [execStop_of_playing hp] at h
      cases h
      exact (PlaybackEffect.teardown hp rfl rfl rfl rfl).respond _
    · rw [execStop_of_not_playing hp] at h
      cases h
      exact (PlaybackEffect.refl s).respond _
  | status =>
    cases h
    exact (PlaybackEffect.refl s).respond _
  | capture dst sampleRate duration =>
    rcases execCapture_cases dst sampleRate duration s with ⟨r, -, e⟩ | ⟨-, e⟩ <;> rw [e] at h <;> cases h
    · exact (PlaybackEffect.refl s).respond r
    · exact captureSetup_effect dst sampleRate duration s
  | smooth base len alphaQ => exact .of_keepsPlayback (execSmooth_keepsPlayback h)
  | decode pathId dst => exact .of_keepsPlayback (execDecode_frame h).1.playback
  | encode pathId base len sampleRate => exact .of_keepsPlayback (execEncode_frame h).1.playback
  | tick => exact execTick_effect h
  | cancel =>
    by_cases hp : s.pbe.state = .playing
    · rw [execCancel_of_playing hp] at h
      cases h
      exact (PlaybackEffect.teardown (u := s.ackCancel.setFg .idle) hp rfl rfl rfl rfl).respond _
    · rw [execCancel_of_not_playing hp] at h
      cases h
      exact .kept rfl rfl rfl (.refl s)

/-! The effect of a step. -/

/-- Taking a sample touches no more than CAP, its byte of sample memory, the foreground and the response (R111). -/
theorem captureTake_frame {dst : Word} {s t : State} (h : captureTake dst s = .next t) :
    t.cfg = s.cfg ∧ t.pbe = s.pbe ∧ t.timer = s.timer ∧ t.pwm = s.pwm ∧ t.storage = s.storage ∧
    t.trace = { access := .readAdc s.readAdc.1, ok := true } :: s.trace := by
  rcases captureTake_cases dst s with ⟨-, e⟩ | ⟨-, s1, hs1, e⟩ <;> rw [e] at h
  · cases h
  · have hframe : s1.cfg = s.cfg ∧ s1.pbe = s.pbe ∧ s1.timer = s.timer ∧ s1.pwm = s.pwm ∧ s1.storage = s.storage ∧
        s1.trace = { access := .readAdc s.readAdc.1, ok := true } :: s.trace := by
      simp [hs1]
    split at h <;> cases h <;> exact hframe

theorem captureTake_effect {dst : Word} {s t : State} (h : captureTake dst s = .next t) : PlaybackEffect s t := by
  obtain ⟨-, hpbe, htimer, hpwm, -, htrace⟩ := captureTake_frame h
  exact .kept hpbe (by rw [htimer]) hpwm (.of_cons htrace rfl)

theorem foregroundStep_effect {s t : State} (h : foregroundStep s = .next t) : PlaybackEffect s t := by
  rcases foregroundStep_cases s with ⟨-, -, e⟩ | ⟨-, -, e⟩ | ⟨-, i, rest, -, e⟩ | ⟨base, len, sampleRate, loop, hfg, e⟩ |
    ⟨dst, -, e⟩ | ⟨dst, -, e⟩ <;> rw [e] at h
  · cases h
    exact .refl s
  · cases h
    exact .kept rfl rfl rfl (.refl s)
  · exact (exec_effect h).congr ⟨rfl, rfl, rfl, rfl, rfl, rfl⟩ ⟨rfl, rfl, rfl, rfl, rfl, rfl⟩
  · cases h
    unfold startResume
    split
    · exact startSession_effect .idle (.inr hfg)
    · exact .refl s
  · cases h
    rw [capturePoll_eq]
    split <;> exact .kept rfl rfl rfl (.of_cons rfl rfl)
  · exact captureTake_effect h

theorem boundaryStep_effect {s t : State} (h : boundaryStep s = .next t) : PlaybackEffect s t := by
  rcases boundaryStep_cases s with ⟨-, e⟩ | ⟨-, -, e⟩ | ⟨-, -, e⟩ <;> rw [e] at h
  · exact exec_effect h
  · exact exec_effect h
  · exact foregroundStep_effect h

/-- A step resets the machine or has one of the effects (R163, R187). -/
theorem step_effect {s t : State} (h : step s = .next t) :
    (∃ later, s.env.boundaries = .reset :: later ∧
      t = { s with env := { s.env with boundaries := later } }.applyReset) ∨ PlaybackEffect s t := by
  rcases step_cases h with ⟨-, e⟩ | ⟨a, later, s1, u, -, rfl, e, rfl⟩ | ⟨later, hb, e⟩
  · exact .inr (boundaryStep_effect e)
  · exact .inr ((boundaryStep_effect e).congr ⟨rfl, rfl, rfl, rfl, rfl, rfl⟩ ⟨rfl, rfl, rfl, rfl, rfl, rfl⟩)
  · exact .inl ⟨later, hb, e⟩

/-! Faults. -/

/-- Settles O28: of the effects only `faulted` has a failed access in it, and a reset makes none. -/
theorem failingStepEndsFaulted : Obligations.FailingStepEndsFaulted := by
  intro s t added h hadded ⟨e, he, hbad⟩
  have grew (hg : GrewOk s t) : t.pbe.state = .faulted := by
    obtain ⟨added', h', hok⟩ := hg
    obtain rfl := added_eq hadded h'
    exact absurd (hok e he) (by simp [hbad])
  rcases step_effect h with ⟨later, -, rfl⟩ | heff
  · have hnil : added ++ s.trace = [] := hadded.symm
    rw [(List.append_eq_nil_iff.mp hnil).1] at he
    cases he
  · cases heff with
    | kept _ _ _ hg => exact grew hg
    | started _ _ _ _ _ _ _ _ hg => exact grew hg
    | sampled _ _ _ _ _ _ _ hg => exact grew hg
    | ended _ _ _ _ _ _ hg => exact grew hg
    | faulted hs => exact hs

/-! The engine's transitions. -/

theorem startSession_state (base len sampleRate : Word) (loop : Byte) (s : State) :
    (startSession base len sampleRate loop s).pbe.state = .playing ∨
    (startSession base len sampleRate loop s).pbe.state = .faulted := by
  rcases startSession_cases base len sampleRate loop s with ⟨-, e⟩ | ⟨-, u, -, e⟩ <;> rw [e]
  · exact .inl rfl
  · exact .inr (by simp)

theorem teardown_state (s : State) : s.teardown.2.pbe.state = .stopped ∨ s.teardown.2.pbe.state = .faulted := by
  rw [State.teardown_pbe]
  dsimp only
  split <;> simp

/-- Settles O38: START, TICK, STOP and CANCEL by their cases; the others leave PBE alone. -/
theorem engineTransitions : Obligations.EngineTransitions := by
  intro i s t h
  cases i with
  | start base len sampleRate loop =>
    rcases execStart_cases base len sampleRate loop s with ⟨r, -, e⟩ | ⟨-, -, e⟩ | ⟨hc, -, e⟩ <;>
      obtain rfl := Host.Outcome.next.inj (e.symm.trans h)
    · exact .inl rfl
    · exact .inl rfl
    · exact .inr (.inl ⟨(startCheck_eq_none.mp hc).1, rfl, startSession_state base len sampleRate loop s⟩)
  | stop =>
    by_cases hp : s.pbe.state = .playing
    · obtain rfl := Host.Outcome.next.inj ((execStop_of_playing hp).symm.trans h)
      exact .inr (.inr (.inr ⟨hp, .inl rfl, teardown_state s⟩))
    · obtain rfl := Host.Outcome.next.inj ((execStop_of_not_playing hp).symm.trans h)
      exact .inl rfl
  | status =>
    cases h
    exact .inl rfl
  | capture dst sampleRate duration =>
    rcases execCapture_cases dst sampleRate duration s with ⟨r, -, e⟩ | ⟨-, e⟩ <;>
      obtain rfl := Host.Outcome.next.inj (e.symm.trans h)
    · exact .inl rfl
    · rw [captureSetup_eq]
      split <;> exact .inl rfl
  | smooth base len alphaQ => exact .inl (by rw [(execSmooth_keepsPlayback h).1])
  | decode pathId dst => exact .inl (by rw [(execDecode_frame h).1.playback.1])
  | encode pathId base len sampleRate => exact .inl (by rw [(execEncode_frame h).1.playback.1])
  | tick =>
    rcases execTick_cases s with ⟨-, e⟩ | ⟨-, -, -, -, -, e⟩ | ⟨hp, he, hl, -, e⟩ | ⟨hp, -, u, -, e⟩ | ⟨-, -, -, e⟩
    · obtain rfl := Host.Outcome.next.inj (e.symm.trans h)
      exact .inl rfl
    · obtain rfl := Host.Outcome.next.inj (e.symm.trans h)
      exact .inl rfl
    · obtain rfl := Host.Outcome.next.inj (e.symm.trans h)
      exact .inr (.inr (.inl ⟨hp, rfl, .inr ⟨rfl, hl, he⟩⟩))
    · obtain rfl := Host.Outcome.next.inj (e.symm.trans h)
      exact .inr (.inr (.inl ⟨hp, rfl, .inl (by simp)⟩))
    · cases e.symm.trans h
  | cancel =>
    by_cases hp : s.pbe.state = .playing
    · obtain rfl := Host.Outcome.next.inj ((execCancel_of_playing hp).symm.trans h)
      exact .inr (.inr (.inr ⟨hp, .inr rfl, teardown_state _⟩))
    · obtain rfl := Host.Outcome.next.inj ((execCancel_of_not_playing hp).symm.trans h)
      exact .inl rfl

end Sys2Proof.Proofs.Effects
end

section
/-! The machine's invariant (10_state.md section 8): every step keeps it, no step from it stops (20_memory.md section 1), and
the buffer being played is read-only (20_memory.md section 3). -/

namespace Sys2Proof.Proofs.Invariant
open Sys2Proof.Machine Sys2Proof.Proofs.Playback Sys2Proof.Proofs.Boundary Sys2Proof.Proofs.Effects

/-! Words as numbers. -/

theorem toNat_pos_of_ne_zero {v : Word} (h : v ≠ 0#32) : 0 < v.toNat :=
  Nat.pos_of_ne_zero fun e => h (BitVec.eq_of_toNat_eq e)

/-- One past an index below a length does not wrap. -/
theorem toNat_succ_of_lt {i n : Word} (h : i < n) : (i + 1#32).toNat = i.toNat + 1 := by
  have := BitVec.lt_def.mp h
  have := n.isLt
  rw [BitVec.toNat_add]
  simp only [BitVec.toNat_ofNat]
  omega

/-! What an instruction does to the parameters, the memories, CAP and the foreground. -/

/-- Every byte of the playing buffer reads as before. -/
def PlayedBytesKept (s t : State) : Prop :=
  s.pbe.state = .playing → ∀ a, s.pbe.bufBase.toNat ≤ a → a < s.pbe.bufBase.toNat + s.pbe.bufLen.toNat →
    t.sm.read a = s.sm.read a

theorem PlayedBytesKept.of_sm {s t : State} (h : t.sm = s.sm) : PlayedBytesKept s t :=
  fun _ _ _ _ => by rw [h]

/-- The data side of an instruction: it keeps what the invariant says of the memories and of CAP's clock, it leaves the
playing buffer's bytes alone, and a foreground that was idle is left as the checks of its next operation. -/
structure KeepsDataSound (s t : State) : Prop where
  cfg        : t.cfg = s.cfg
  memory     : s.sm.wf s.cfg.sampleMemBytes → t.sm.wf s.cfg.sampleMemBytes
  storage    : storageWf s.storage → storageWf t.storage
  clock      : clockFits s → clockFits t
  played     : PlayedBytesKept s t
  foreground : s.fg = .idle → foregroundInside t

theorem foregroundInside_of_idle {s : State} (h : s.fg = .idle) : foregroundInside s := by
  simp only [foregroundInside, h]

/-- What leaves the data alone is sound. -/
theorem KeepsDataSound.of_keepsData {s t : State} (h : keepsData s t) (hfg : s.fg = .idle → foregroundInside t) :
    KeepsDataSound s t := by
  obtain ⟨hcfg, hcap, -, -, -, -, hsm, hst⟩ := h
  exact ⟨hcfg, by rw [hsm]; exact id, by rw [hst]; exact id, fun h => by rw [clockFits, hcap, hcfg]; exact h,
    fun _ _ _ _ => by rw [hsm], hfg⟩

/-- What leaves the data alone and the foreground too is sound. -/
theorem KeepsDataSound.of_keepsData_fg {s t : State} (h : keepsData s t) (hfg : t.fg = s.fg) : KeepsDataSound s t :=
  .of_keepsData h fun hidle => foregroundInside_of_idle (hfg.trans hidle)

theorem KeepsDataSound.respond (s : State) (r : Response) : KeepsDataSound s (s.respond r) :=
  .of_keepsData_fg ⟨rfl, rfl, rfl, rfl, rfl, rfl, rfl, rfl⟩ rfl

/-- A session begun, or its fault, leaves the data and the foreground alone. -/
theorem startSession_keepsData (base len sampleRate : Word) (loop : Byte) (s : State) :
    keepsData s (startSession base len sampleRate loop s) ∧ (startSession base len sampleRate loop s).fg = s.fg := by
  rcases startSession_cases base len sampleRate loop s with ⟨-, e⟩ | ⟨-, u, hu, e⟩ <;> rw [e]
  · exact ⟨⟨rfl, rfl, rfl, rfl, rfl, rfl, rfl, rfl⟩, rfl⟩
  · exact ⟨keepsData_takeFault hu.data, by simp [hu.fg]⟩

/-- What changes no more than sample memory is sound where the change is. -/
theorem KeepsDataSound.of_frame {s t : State} (hframe : DataFrame s t) (hst : storageWf s.storage → storageWf t.storage)
    (hmem : s.sm.wf s.cfg.sampleMemBytes → t.sm.wf s.cfg.sampleMemBytes)
    (hplayed : PlayedBytesKept s t) : KeepsDataSound s t where
  cfg := hframe.cfg
  memory := hmem
  storage := hst
  clock := fun h => by rw [clockFits, hframe.cap, hframe.cfg]; exact h
  played := hplayed
  foreground := fun hidle => foregroundInside_of_idle (hframe.fg.trans hidle)

theorem execSmooth_sound {base len alphaQ : Word} {s t : State} (h : exec (.smooth base len alphaQ) s = .next t) :
    KeepsDataSound s t := by
  rcases execSmooth_cases base len alphaQ s with ⟨r, -, e⟩ | ⟨-, -, e⟩ | ⟨hc, hl, e⟩ <;>
    obtain rfl := Host.Outcome.next.inj (e.symm.trans h)
  · exact .respond s r
  · exact .respond s _
  · obtain ⟨-, hf, hb⟩ := smoothCheck_eq_none.mp hc
    obtain ⟨hframe, hst, -, -, -, -⟩ := smoothBuffer_frame base len (alphaOf s.cfg alphaQ) s
    exact .of_frame ⟨hframe.playback, hframe.cfg, hframe.cap, hframe.boot, hframe.fg, hframe.cancel⟩ (fun h => hst ▸ h)
      (fun hm => smoothBuffer_wf hm hl hf)
      fun hp a h1 h2 => smoothBuffer_read_outside base len _ s a (regionBusy_false_disjoint hb hp h1 h2)

theorem execDecode_sound {pathId dst : Word} {s t : State} (h : exec (.decode pathId dst) s = .next t) :
    KeepsDataSound s t := by
  obtain ⟨hframe, hst, -⟩ := execDecode_frame h
  have memory : (s.sm.wf s.cfg.sampleMemBytes → t.sm.wf s.cfg.sampleMemBytes) ∧ PlayedBytesKept s t := by
    rcases execDecode_cases pathId dst s with
      ⟨-, e⟩ | ⟨stream, -, ⟨_, _, -, e⟩ | ⟨_, _, _, _, -, -, e⟩ | ⟨off, rate, count, -, hc, e⟩⟩ <;>
      obtain rfl := Host.Outcome.next.inj (e.symm.trans h)
    · exact ⟨id, fun _ _ _ _ => rfl⟩
    · exact ⟨id, fun _ _ _ _ => rfl⟩
    · exact ⟨id, fun _ _ _ _ => rfl⟩
    · obtain ⟨hf, hb⟩ := decodeCheck_eq_none.mp hc
      exact ⟨fun hm => decodeCopy_wf (s := s.drawReadFails.2) hm hf, fun hp a h1 h2 =>
        decodeCopy_read_outside stream off rate count dst _ a (regionBusy_false_disjoint hb hp h1 h2)⟩
  exact .of_frame hframe (by rw [hst]; exact id) memory.1 memory.2

theorem execEncode_sound {pathId base len sampleRate : Word} {s t : State}
    (h : exec (.encode pathId base len sampleRate) s = .next t) : KeepsDataSound s t := by
  obtain ⟨hframe, hsm, -, -⟩ := execEncode_frame h
  refine .of_frame hframe (fun hw => ?_) (by rw [hsm]; exact id) fun _ _ _ _ => by rw [hsm]
  rcases execEncode_cases pathId base len sampleRate s with ⟨-, e⟩ | ⟨-, s1, hs1, e⟩ <;>
    obtain rfl := Host.Outcome.next.inj (e.symm.trans h)
  · exact hw
  · have stored : storageWf s1.storage := by
      rw [hs1]
      exact storageAfter_wf hw _ _ _
    split <;> exact stored

theorem execCapture_sound {dst sampleRate duration : Word} {s t : State}
    (h : exec (.capture dst sampleRate duration) s = .next t) : KeepsDataSound s t := by
  rcases execCapture_cases dst sampleRate duration s with ⟨r, -, e⟩ | ⟨hc, e⟩ <;>
    obtain rfl := Host.Outcome.next.inj (e.symm.trans h)
  · exact .respond s r
  · obtain ⟨-, hp0, hp, hf, hb⟩ := captureCheck_eq_none.mp hc
    have hperiod : period s.cfg sampleRate.toNat < s.cfg.modulus := by omega
    have hle := countRegister_le s.env.draws sampleRate duration
    have opened : s.readTick.1 < s.cfg.modulus ∧ period s.cfg sampleRate.toNat < s.cfg.modulus :=
      ⟨readTick_lt s, hperiod⟩
    rw [captureSetup_eq]
    split
    · exact ⟨rfl, id, id, fun _ => opened, fun _ _ _ _ => rfl, fun hidle => foregroundInside_of_idle hidle⟩
    · rename_i h0
      refine ⟨rfl, id, id, fun _ => opened, fun _ _ _ _ => rfl, fun _ => ?_⟩
      have hpos : (0#32 : Word) < countRegister s.env.draws sampleRate duration :=
        BitVec.lt_def.mpr (toNat_pos_of_ne_zero h0)
      exact ⟨hpos, le_trans (Nat.add_le_add_left hle _) hf, Nat.pos_of_ne_zero hp0, hp, regionBusy_mono hb hle⟩

theorem exec_sound {i : Instr} {s t : State} (h : exec i s = .next t) : KeepsDataSound s t := by
  cases i with
  | start base len sampleRate loop =>
    rcases execStart_cases base len sampleRate loop s with ⟨r, -, e⟩ | ⟨hc, -, e⟩ | ⟨hc, -, e⟩ <;>
      obtain rfl := Host.Outcome.next.inj (e.symm.trans h)
    · exact .respond s r
    · exact .of_keepsData ⟨rfl, rfl, rfl, rfl, rfl, rfl, rfl, rfl⟩ fun _ => hc
    · obtain ⟨hdata, hfg⟩ := startSession_keepsData base len sampleRate loop s
      exact .of_keepsData_fg hdata hfg
  | stop =>
    by_cases hp : s.pbe.state = .playing
    · obtain rfl := Host.Outcome.next.inj ((execStop_of_playing hp).symm.trans h)
      exact .of_keepsData_fg (by simp [keepsData]) (by simp)
    · obtain rfl := Host.Outcome.next.inj ((execStop_of_not_playing hp).symm.trans h)
      exact .respond s _
  | status =>
    obtain rfl := Host.Outcome.next.inj h
    exact .respond s _
  | capture dst sampleRate duration => exact execCapture_sound h
  | smooth base len alphaQ => exact execSmooth_sound h
  | decode pathId dst => exact execDecode_sound h
  | encode pathId base len sampleRate => exact execEncode_sound h
  | tick =>
    obtain ⟨hdata, -, -, -, -, -, hfg, -⟩ := tickWritesOnlyItsOwn s t h
    exact .of_keepsData_fg hdata hfg
  | cancel =>
    by_cases hp : s.pbe.state = .playing
    · obtain rfl := Host.Outcome.next.inj ((execCancel_of_playing hp).symm.trans h)
      exact .of_keepsData (by simp [keepsData]) fun _ => foregroundInside_of_idle (by simp)
    · obtain rfl := Host.Outcome.next.inj ((execCancel_of_not_playing hp).symm.trans h)
      exact .of_keepsData ⟨rfl, rfl, rfl, rfl, rfl, rfl, rfl, rfl⟩ fun _ => foregroundInside_of_idle rfl

/-! The parameters and the engine's way back to Idle. -/

theorem startResume_keepsData (base len sampleRate : Word) (loop : Byte) (s : State) :
    keepsData s (startResume base len sampleRate loop s) := by
  unfold startResume
  split
  · exact (startSession_keepsData base len sampleRate loop (s.setFg .idle)).1
  · exact ⟨rfl, rfl, rfl, rfl, rfl, rfl, rfl, rfl⟩

theorem foregroundStep_cfg {s t : State} (h : foregroundStep s = .next t) : t.cfg = s.cfg := by
  rcases foregroundStep_cases s with ⟨-, -, e⟩ | ⟨-, -, e⟩ | ⟨-, i, rest, -, e⟩ | ⟨base, len, sampleRate, loop, -, e⟩ |
    ⟨dst, -, e⟩ | ⟨dst, -, e⟩ <;> rw [e] at h
  · cases h; rfl
  · cases h; rfl
  · exact (exec_sound h).cfg
  · cases h
    exact (startResume_keepsData base len sampleRate loop s).1
  · cases h
    rw [capturePoll_eq]
    split <;> rfl
  · exact (captureTake_frame h).1

theorem boundaryStep_cfg {s t : State} (h : boundaryStep s = .next t) : t.cfg = s.cfg := by
  rcases boundaryStep_cases s with ⟨-, e⟩ | ⟨-, -, e⟩ | ⟨-, -, e⟩ <;> rw [e] at h
  · exact (exec_sound h).cfg
  · exact (exec_sound h).cfg
  · exact foregroundStep_cfg h

theorem step_cfg {s t : State} (h : step s = .next t) : t.cfg = s.cfg := by
  rcases step_cases h with ⟨-, e⟩ | ⟨a, later, s1, u, -, rfl, e, rfl⟩ | ⟨later, -, rfl⟩
  · exact boundaryStep_cfg e
  · have hcfg := boundaryStep_cfg e
    exact hcfg
  · rfl

/-- Settles O39: no effect of a step makes the engine Idle. -/
theorem onlyResetReturnsToIdle : Obligations.OnlyResetReturnsToIdle := by
  intro s t h
  refine ⟨step_cfg h, fun hidle => ?_⟩
  rcases step_effect h with ⟨later, hb, -⟩ | heff
  · exact .inr (by rw [hb]; rfl)
  · cases heff with
    | kept hpbe => exact .inl (by rw [← hpbe, hidle])
    | started _ _ _ _ _ hpbe => rw [hpbe] at hidle; cases hidle
    | sampled hp _ _ hpbe => rw [hpbe] at hidle; exact .inl hidle
    | ended _ e he hpbe =>
      rw [hpbe] at hidle
      rcases he with rfl | rfl <;> cases hidle
    | faulted hs => rw [hs] at hidle; cases hidle

/-! The neutral output. -/

theorem noWriteFailed_of_grewOk {s t : State} (h : GrewOk s t) (ht : noWriteFailed t) : noWriteFailed s := by
  obtain ⟨added, htrace, -⟩ := h
  exact fun e he => ht e (htrace ▸ List.mem_append_right added he)

theorem neutralInv_reset (s : State) : NeutralInv s.applyReset :=
  fun _ => ⟨fun h => (by cases h), fun _ => ⟨rfl, rfl⟩⟩

/-- Settles O29: a session is armed, what ends it writes the neutral duty and disarms, and so does a shutdown none of whose
writes failed. -/
theorem neutralOutputKept : Obligations.NeutralOutputKept := by
  intro s t hinv h
  have hcfg := step_cfg h
  rcases step_effect h with ⟨later, -, rfl⟩ | heff
  · exact neutralInv_reset _
  intro hok
  cases heff with
  | kept hpbe harmed hpwm hg =>
    rw [hpbe, harmed, hpwm, hcfg]
    exact hinv (noWriteFailed_of_grewOk hg hok)
  | started _ _ _ _ _ hpbe harmed =>
    exact ⟨fun _ => harmed, fun hn => absurd (by rw [hpbe]) hn⟩
  | sampled hp _ _ hpbe harmed _ _ hg =>
    exact ⟨fun _ => harmed.trans ((hinv (noWriteFailed_of_grewOk hg hok)).1 hp), fun hn => absurd (by rw [hpbe]; exact hp) hn⟩
  | ended _ e he hpbe harmed hduty =>
    refine ⟨fun hp => ?_, fun _ => ⟨hduty.trans (congrArg _ hcfg.symm), harmed⟩⟩
    rw [hpbe] at hp
    rcases he with rfl | rfl <;> cases hp
  | faulted hs armed duty _ hleft =>
    refine ⟨fun hp => absurd (hs.symm.trans hp) (by decide), fun _ => shutdownLeft_neutral hleft fun e he => ?_⟩
    obtain ⟨r1, r2, before, htrace, -, -⟩ := hleft
    have hmem : e ∈ t.trace := List.mem_of_mem_take he
    rw [htrace] at he
    simp only [List.take_succ_cons, List.take_zero, List.mem_cons, List.not_mem_nil, or_false] at he
    rcases he with rfl | rfl <;> exact hok _ hmem _ rfl

/-! The invariant of the machine. -/

/-- The duty stays legal over every effect (R27). -/
theorem dutyLegal_of_effect {s t : State} (h : PlaybackEffect s t) (hcfg : t.cfg = s.cfg)
    (hd : Machine.dutyLegal s) : Machine.dutyLegal t := by
  have neutral {d : Nat} (hn : d = s.cfg.neutral) (e : t.pwm.duty = d) : Machine.dutyLegal t :=
    .inl (by rw [e, hn, hcfg])
  have same (e : t.pwm.duty = s.pwm.duty) : Machine.dutyLegal t := by
    rw [Machine.dutyLegal, e, hcfg]
    exact hd
  cases h with
  | kept _ _ hpwm => exact same (by rw [hpwm])
  | started _ _ _ _ _ _ _ hduty => exact neutral rfl hduty
  | sampled _ _ _ _ _ b hduty => exact .inr ⟨b, by rw [hduty, hcfg]⟩
  | ended _ _ _ _ _ hduty => exact neutral rfl hduty
  | faulted _ _ duty hbefore hleft =>
    obtain ⟨_, r2, _, -, -, hduty⟩ := hleft
    cases r2
    · rcases hbefore with hb | hb
      · exact same (hduty.trans hb)
      · exact neutral hb hduty
    · exact neutral (congrArg Params.neutral hcfg) hduty

/-- A session is begun only with its checks passed, from a state with the invariant (R134, R137). -/
theorem startCheck_of_allowed {s : State} {base len sampleRate : Word} {loop : Byte} (hinv : Machine.Inv s)
    (h : startAllowed s base len sampleRate loop) : startCheck base len sampleRate loop s = none := by
  rcases h with h | h
  · exact h
  · have := hinv.foreground
    rwa [foregroundInside, h] at this

/-- The cursor stays inside its buffer over every effect (R38, R148). -/
theorem cursorInside_of_effect {s t : State} (h : PlaybackEffect s t) (hcfg : t.cfg = s.cfg) (hinv : Machine.Inv s) :
    Machine.cursorInside t := by
  intro hp
  cases h with
  | kept hpbe =>
    rw [hpbe] at hp ⊢
    rw [hcfg]
    exact hinv.cursor hp
  | started base len sampleRate loop hallowed hpbe =>
    obtain ⟨-, -, -, -, hfit⟩ := startCheck_eq_none.mp (startCheck_of_allowed hinv hallowed)
    rw [hpbe, hcfg]
    exact ⟨Nat.zero_le _, hfit⟩
  | sampled hs i hlt hpbe =>
    obtain ⟨-, hfit⟩ := hinv.cursor hs
    rw [hpbe, hcfg]
    refine ⟨?_, hfit⟩
    rw [toNat_succ_of_lt hlt]
    exact BitVec.lt_def.mp hlt
  | ended _ e he hpbe =>
    rw [hpbe] at hp
    rcases he with rfl | rfl <;> cases hp
  | faulted hs => rw [hs] at hp; cases hp

/-- An effect begins no session, and moves no buffer, where the engine goes on Playing. -/
theorem buffer_kept_of_effect {s t : State} (h : PlaybackEffect s t) (hinv : Machine.Inv s) (hs : s.pbe.state = .playing)
    (ht : t.pbe.state = .playing) : t.pbe.bufBase = s.pbe.bufBase ∧ t.pbe.bufLen = s.pbe.bufLen := by
  cases h with
  | kept hpbe => rw [hpbe]; exact ⟨rfl, rfl⟩
  | started _ _ _ _ hallowed =>
    exact absurd hs (startCheck_eq_none.mp (startCheck_of_allowed hinv hallowed)).1
  | sampled _ _ _ hpbe => rw [hpbe]; exact ⟨rfl, rfl⟩
  | ended _ e he hpbe =>
    rw [hpbe] at ht
    rcases he with rfl | rfl <;> cases ht
  | faulted hf => rw [hf] at ht; cases ht

/-- A region clear of the playing buffer stays so while no session begins. -/
theorem regionBusy_of_session {s t : State} {base len : Nat} (h : regionBusy s base len = false)
    (hplay : t.pbe.state = .playing → s.pbe.state = .playing ∧ t.pbe.bufBase = s.pbe.bufBase ∧
      t.pbe.bufLen = s.pbe.bufLen) : regionBusy t base len = false := by
  by_cases hp : t.pbe.state = .playing
  · obtain ⟨hs, hb, hl⟩ := hplay hp
    rw [regionBusy, hp, hb, hl]
    rwa [regionBusy, hs] at h
  · simp [regionBusy, hp]

/-- An operation in progress is left as it was by what begins no session and writes none of its registers. -/
theorem foregroundInside_of_session {s t : State} (h : foregroundInside s) (hcfg : t.cfg = s.cfg) (hcap : t.cap = s.cap)
    (hfg : t.fg = s.fg) (hplay : t.pbe.state = .playing → s.pbe.state = .playing ∧ t.pbe.bufBase = s.pbe.bufBase ∧
      t.pbe.bufLen = s.pbe.bufLen) : foregroundInside t := by
  have capture {dst : Word} (hc : captureInside s dst) : captureInside t dst := by
    obtain ⟨h1, h2, h3, h4, h5⟩ := hc
    rw [captureInside, hcap, hcfg]
    exact ⟨h1, h2, h3, h4, regionBusy_of_session h5 hplay⟩
  unfold foregroundInside at h ⊢
  rw [hfg]
  cases hf : s.fg with
  | idle => trivial
  | startHeld base len sampleRate loop =>
    rw [hf] at h
    obtain ⟨h1, h2⟩ := startCheck_eq_none.mp h
    refine startCheck_eq_none.mpr ⟨fun hp => h1 (hplay hp).1, ?_⟩
    rwa [hcfg]
  | captureWait dst => rw [hf] at h; exact capture h
  | captureTake dst => rw [hf] at h; exact capture h

/-- The invariant after an effect on PBE and sound changes of the data. -/
theorem inv_of_effect {s t : State} (hinv : Machine.Inv s) (heff : PlaybackEffect s t) (hdata : KeepsDataSound s t)
    (hfg : foregroundInside t) : Machine.Inv t where
  params := hdata.cfg ▸ hinv.params
  memory := hdata.cfg ▸ hdata.memory hinv.memory
  storage := hdata.storage hinv.storage
  duty := dutyLegal_of_effect heff hdata.cfg hinv.duty
  clock := hdata.clock hinv.clock
  cursor := cursorInside_of_effect heff hdata.cfg hinv
  foreground := hfg

/-- The invariant depends on these parts of the state alone. -/
theorem inv_congr {s t : State} (h : Machine.Inv s) (hcfg : t.cfg = s.cfg) (hpbe : t.pbe = s.pbe) (hpwm : t.pwm = s.pwm)
    (hcap : t.cap = s.cap) (hfg : t.fg = s.fg) (hsm : t.sm = s.sm) (hst : t.storage = s.storage) : Machine.Inv t where
  params := hcfg ▸ h.params
  memory := by rw [hsm, hcfg]; exact h.memory
  storage := hst ▸ h.storage
  duty := by rw [Machine.dutyLegal, hpwm, hcfg]; exact h.duty
  clock := by rw [clockFits, hcap, hcfg]; exact h.clock
  cursor := by rw [Machine.cursorInside, hpbe, hcfg]; exact h.cursor
  foreground := foregroundInside_of_session h.foreground hcfg hcap hfg fun hp => by rw [hpbe] at hp ⊢; exact ⟨hp, rfl, rfl⟩

/-- A command at an idle foreground keeps the invariant. -/
theorem exec_inv_of_idle {i : Instr} {s t : State} (hinv : Machine.Inv s) (hidle : s.fg = .idle) (h : exec i s = .next t) :
    Machine.Inv t :=
  inv_of_effect hinv (exec_effect h) (exec_sound h) ((exec_sound h).foreground hidle)

theorem execTick_inv {s t : State} (hinv : Machine.Inv s) (h : exec .tick s = .next t) : Machine.Inv t := by
  obtain ⟨hdata, -, -, hb, hl, -, hfg, -⟩ := tickWritesOnlyItsOwn s t h
  obtain ⟨hcfg, hcap, -⟩ := hdata
  refine inv_of_effect hinv (exec_effect h) (exec_sound h)
    (foregroundInside_of_session hinv.foreground hcfg hcap hfg fun hp => ⟨?_, hb, hl⟩)
  rcases engineTransitions .tick s t h with e | ⟨-, hop, -⟩ | ⟨hs, -⟩ | ⟨hs, -⟩
  · rw [← e, hp]
  · cases hop
  · exact hs
  · exact hs

theorem execCancel_inv {s t : State} (hinv : Machine.Inv s) (h : exec .cancel s = .next t) : Machine.Inv t := by
  refine inv_of_effect hinv (exec_effect h) (exec_sound h) (foregroundInside_of_idle ?_)
  by_cases hp : s.pbe.state = .playing
  · obtain rfl := Host.Outcome.next.inj ((execCancel_of_playing hp).symm.trans h)
    simp
  · obtain rfl := Host.Outcome.next.inj ((execCancel_of_not_playing hp).symm.trans h)
    rfl

theorem startResume_inv {base len sampleRate : Word} {loop : Byte} {s : State} (hinv : Machine.Inv s)
    (hfg : s.fg = .startHeld base len sampleRate loop) : Machine.Inv (startResume base len sampleRate loop s) := by
  unfold startResume
  split
  · obtain ⟨hdata, hf⟩ := startSession_keepsData base len sampleRate loop (s.setFg .idle)
    have hidle : foregroundInside (startSession base len sampleRate loop (s.setFg .idle)) := foregroundInside_of_idle hf
    exact inv_of_effect hinv (startSession_effect .idle (.inr hfg)) (.of_keepsData hdata fun _ => hidle) hidle
  · exact hinv

theorem captureInside_of_inv {s : State} {dst : Word} (hinv : Machine.Inv s)
    (hfg : s.fg = .captureWait dst ∨ s.fg = .captureTake dst) : captureInside s dst := by
  have := hinv.foreground
  rcases hfg with h | h <;> rwa [foregroundInside, h] at this

theorem capturePoll_inv {dst : Word} {s : State} (hinv : Machine.Inv s) (hfg : s.fg = .captureWait dst) :
    Machine.Inv (capturePoll dst s) := by
  have inside := captureInside_of_inv hinv (.inl hfg)
  rw [capturePoll_eq]
  split
  · exact ⟨hinv.params, hinv.memory, hinv.storage, hinv.duty, hinv.clock, hinv.cursor, inside⟩
  · exact inv_congr hinv rfl rfl rfl rfl rfl rfl rfl

theorem captureTake_inv {dst : Word} {s t : State} (hinv : Machine.Inv s) (hfg : s.fg = .captureTake dst)
    (h : captureTake dst s = .next t) : Machine.Inv t := by
  obtain ⟨hidx, hfit, hper, hhalf, hbusy⟩ := captureInside_of_inv hinv (.inr hfg)
  rcases captureTake_cases dst s with ⟨-, e⟩ | ⟨haddr, s1, hs1, e⟩ <;> rw [e] at h
  · cases h
  · have hmem : s1.sm.wf s1.cfg.sampleMemBytes := by
      rw [hs1]
      exact SampleMem.write_wf hinv.memory haddr _
    have hclock : clockFits s1 := by
      rw [hs1]
      exact ⟨tickAdd_lt _ _ _, hinv.clock.2⟩
    have hrest : s1.cfg = s.cfg ∧ s1.storage = s.storage ∧ s1.pwm = s.pwm ∧ s1.pbe = s.pbe := by
      rw [hs1]
      exact ⟨rfl, rfl, rfl, rfl⟩
    obtain ⟨hcfg, hst, hpwm, hpbe⟩ := hrest
    have hduty : Machine.dutyLegal s1 := by rw [Machine.dutyLegal, hpwm, hcfg]; exact hinv.duty
    have hcur : Machine.cursorInside s1 := by rw [Machine.cursorInside, hpbe, hcfg]; exact hinv.cursor
    split at h <;> cases h
    · rename_i hlt
      refine ⟨hcfg ▸ hinv.params, hmem, hst ▸ hinv.storage, hduty, hclock, hcur, ?_⟩
      rw [hs1]
      exact ⟨hlt, hfit, hper, hhalf, hbusy⟩
    · exact ⟨hcfg ▸ hinv.params, hmem, hst ▸ hinv.storage, hduty, hclock, hcur, trivial⟩

theorem foregroundStep_inv {s t : State} (hinv : Machine.Inv s) (h : foregroundStep s = .next t) : Machine.Inv t := by
  rcases foregroundStep_cases s with ⟨-, -, e⟩ | ⟨-, -, e⟩ | ⟨hfg, i, rest, -, e⟩ | ⟨base, len, sampleRate, loop, hfg, e⟩ |
    ⟨dst, hfg, e⟩ | ⟨dst, hfg, e⟩ <;> rw [e] at h
  · cases h
    exact hinv
  · cases h
    exact inv_congr hinv rfl rfl rfl rfl rfl rfl rfl
  · exact exec_inv_of_idle (s := s.setRx rest) (inv_congr hinv rfl rfl rfl rfl rfl rfl rfl) hfg h
  · cases h
    exact startResume_inv hinv hfg
  · cases h
    exact capturePoll_inv hinv hfg
  · exact captureTake_inv hinv hfg h

theorem boundaryStep_inv {s t : State} (hinv : Machine.Inv s) (h : boundaryStep s = .next t) : Machine.Inv t := by
  rcases boundaryStep_cases s with ⟨-, e⟩ | ⟨-, -, e⟩ | ⟨-, -, e⟩ <;> rw [e] at h
  · exact execTick_inv hinv h
  · exact execCancel_inv hinv h
  · exact foregroundStep_inv hinv h

theorem applyReset_inv {s : State} (hinv : Machine.Inv s) : Machine.Inv s.applyReset where
  params := hinv.params
  memory := ⟨List.Pairwise.nil, by simp [State.applyReset]⟩
  storage := hinv.storage
  duty := .inl rfl
  clock := ⟨Nat.two_pow_pos _, Nat.two_pow_pos _⟩
  cursor := fun h => by cases h
  foreground := trivial

/-- Arrivals do not touch what the invariant speaks of. -/
theorem absorb_inv {s : State} (hinv : Machine.Inv s) (later : List Boundary) (a : Arrivals) :
    Machine.Inv ({ s with env := { s.env with boundaries := later } }.absorb a) :=
  inv_congr hinv rfl rfl rfl rfl rfl rfl rfl

/-- Settles O30: what is due at the boundary keeps the invariant, and so do arrivals, held requests and reset. -/
theorem invariantKept : Obligations.InvariantKept := by
  intro s t hinv h
  rcases step_cases h with ⟨-, e⟩ | ⟨a, later, s1, u, -, rfl, e, rfl⟩ | ⟨later, -, rfl⟩
  · exact boundaryStep_inv hinv e
  · exact inv_congr (boundaryStep_inv (absorb_inv hinv later a) e) rfl rfl rfl rfl rfl rfl rfl
  · exact applyReset_inv (inv_congr hinv rfl rfl rfl rfl rfl rfl rfl)

theorem resetOf_inv {p : Params} (hp : p.wf) : Machine.Inv (State.resetOf p) where
  params := hp
  memory := (reset_memories_wf p).1
  storage := (reset_memories_wf p).2
  duty := .inl rfl
  clock := ⟨Nat.two_pow_pos _, Nat.two_pow_pos _⟩
  cursor := fun h => by cases h
  foreground := trivial

theorem resetOf_neutralInv (p : Params) : NeutralInv (State.resetOf p) :=
  fun _ => ⟨fun h => (by cases h), fun _ => ⟨rfl, rfl⟩⟩

/-- Settles O31: `State.reset` is the reset of a legal set of parameters. -/
theorem invariantsAtReset : Obligations.InvariantsAtReset :=
  ⟨resetOf_inv (by decide), resetOf_neutralInv _, fun p hp => ⟨resetOf_inv hp, resetOf_neutralInv p⟩⟩

/-! No step from the invariant stops. -/

theorem execTick_goes_on {s : State} (hinv : Machine.Inv s) : ∃ t, exec .tick s = .next t := by
  rcases execTick_cases s with ⟨-, e⟩ | ⟨-, -, -, -, -, e⟩ | ⟨-, -, -, -, e⟩ | ⟨-, -, u, -, e⟩ | ⟨hp, hlt, hout, -⟩
  · exact ⟨_, e⟩
  · exact ⟨_, e⟩
  · exact ⟨_, e⟩
  · exact ⟨_, e⟩
  · obtain ⟨-, hfit⟩ := hinv.cursor hp
    have := BitVec.lt_def.mp hlt
    omega

/-- Settles O33: only TICK could stop, and its fetch is inside sample memory. -/
theorem everyInstructionCompletes : Obligations.EveryInstructionCompletes := by
  intro i s hinv
  cases i with
  | tick => exact execTick_goes_on hinv
  | start => exact ⟨_, rfl⟩
  | stop => exact ⟨_, rfl⟩
  | status => exact ⟨_, rfl⟩
  | capture => exact ⟨_, rfl⟩
  | smooth => exact ⟨_, rfl⟩
  | decode => exact ⟨_, rfl⟩
  | encode => exact ⟨_, rfl⟩
  | cancel => exact ⟨_, rfl⟩

theorem captureTake_goes_on {dst : Word} {s : State} (h : captureInside s dst) : ∃ t, captureTake dst s = .next t := by
  obtain ⟨hidx, hfit, -⟩ := h
  rcases captureTake_cases dst s with ⟨hout, -⟩ | ⟨-, s1, -, e⟩
  · have := BitVec.lt_def.mp hidx
    omega
  · exact ⟨_, e⟩

theorem boundaryStep_goes_on {s : State} (hinv : Machine.Inv s) : ∃ t, boundaryStep s = .next t := by
  rcases boundaryStep_cases s with ⟨-, e⟩ | ⟨-, -, e⟩ | ⟨-, -, e⟩ <;> rw [e]
  · exact everyInstructionCompletes _ _ hinv
  · exact everyInstructionCompletes _ _ hinv
  rcases foregroundStep_cases s with ⟨-, -, e⟩ | ⟨-, -, e⟩ | ⟨-, i, rest, -, e⟩ | ⟨_, _, _, _, -, e⟩ | ⟨dst, -, e⟩ |
    ⟨dst, hfg, e⟩ <;> rw [e]
  · exact ⟨_, rfl⟩
  · exact ⟨_, rfl⟩
  · exact everyInstructionCompletes i _ (inv_congr hinv rfl rfl rfl rfl rfl rfl rfl)
  · exact ⟨_, rfl⟩
  · exact ⟨_, rfl⟩
  · exact captureTake_goes_on (captureInside_of_inv hinv (.inr hfg))

/-- Settles O32: what is due at the boundary goes on, with whatever has arrived. -/
theorem stepAlwaysGoesOn : Obligations.StepAlwaysGoesOn := by
  intro s hinv
  exact step_goes_on (fun a later _ => boundaryStep_goes_on (absorb_inv hinv later a)) (boundaryStep_goes_on hinv)

/-! The buffer being played. -/

theorem captureTake_played {dst : Word} {s t : State} (hc : captureInside s dst) (h : captureTake dst s = .next t) :
    PlayedBytesKept s t := by
  intro hp a h1 h2
  obtain ⟨hidx, -, -, -, hbusy⟩ := hc
  have hout := regionBusy_false_disjoint hbusy hp h1 h2
  have := BitVec.lt_def.mp hidx
  have hread (v : Byte) : (s.sm.write (dst.toNat + s.cap.index.toNat) v).read a = s.sm.read a :=
    SampleMem.read_write_ne _ _ (by omega)
  rcases captureTake_cases dst s with ⟨-, e⟩ | ⟨-, s1, rfl, e⟩ <;> rw [e] at h
  · cases h
  · split at h <;> cases h <;> exact hread _

theorem foregroundStep_played {s t : State} (hinv : Machine.Inv s) (h : foregroundStep s = .next t) : PlayedBytesKept s t := by
  rcases foregroundStep_cases s with ⟨-, -, e⟩ | ⟨-, -, e⟩ | ⟨-, i, rest, -, e⟩ | ⟨base, len, sampleRate, loop, -, e⟩ |
    ⟨dst, -, e⟩ | ⟨dst, hfg, e⟩ <;> rw [e] at h
  · cases h
    exact .of_sm rfl
  · cases h
    exact .of_sm rfl
  · exact (exec_sound h).played
  · cases h
    obtain ⟨-, -, -, -, -, -, hsm, -⟩ := startResume_keepsData base len sampleRate loop s
    exact .of_sm hsm
  · cases h
    rw [capturePoll_eq]
    split <;> exact .of_sm rfl
  · exact captureTake_played (captureInside_of_inv hinv (.inr hfg)) h

theorem boundaryStep_played {s t : State} (hinv : Machine.Inv s) (h : boundaryStep s = .next t) : PlayedBytesKept s t := by
  rcases boundaryStep_cases s with ⟨-, e⟩ | ⟨-, -, e⟩ | ⟨-, -, e⟩ <;> rw [e] at h
  · exact (exec_sound h).played
  · exact (exec_sound h).played
  · exact foregroundStep_played hinv h

/-- Settles O37: a session that goes on keeps its buffer's place, and no write reaches a region that is busy. -/
theorem playingBufferIsReadOnly : Obligations.PlayingBufferIsReadOnly := by
  intro s t hinv h hs ht
  have hplayed : PlayedBytesKept s t := by
    rcases step_cases h with ⟨-, e⟩ | ⟨a, later, s1, u, -, rfl, e, rfl⟩ | ⟨later, -, rfl⟩
    · exact boundaryStep_played hinv e
    · have hkept := boundaryStep_played (absorb_inv hinv later a) e
      exact hkept
    · cases ht
  rcases step_effect h with ⟨later, -, rfl⟩ | heff
  · cases ht
  · obtain ⟨hb, hl⟩ := buffer_kept_of_effect heff hinv hs ht
    refine ⟨hb, hl, fun i hi => ?_⟩
    rw [playingSample, playingSample, hb]
    exact hplayed hs _ (by omega) (by omega)

end Sys2Proof.Proofs.Invariant
end

section
/-! Whole sessions (43_playback.md section 6): the TICKs of a single-shot and of a looping session, one after another, while
the oracle answers ok. -/

namespace Sys2Proof.Proofs.Sessions
open Sys2Proof.Machine Sys2Proof.Proofs.Playback Sys2Proof.Proofs.Invariant

/-! Runs of TICKs and runs of answers. -/

/-- One TICK more, at the end of a run that went on. -/
theorem tickRun_succ_of_next {k : Nat} {s u : State} (h : tickRun k s = .next u) : tickRun (k + 1) s = exec .tick u := by
  induction k generalizing s with
  | zero =>
    obtain rfl := Host.Outcome.next.inj h
    rw [tickRun]
    cases exec .tick s <;> rfl
  | succ k ih =>
    rw [tickRun] at h ⊢
    cases he : exec .tick s with
    | next v => rw [he] at h; exact ih h
    | fault f => rw [he] at h; cases h
    | refused r => rw [he] at h; cases h

theorem nextOk_add (s : State) (m n : Nat) : s.nextOk (m + n) ↔ s.nextOk m ∧ (s.drawn m).nextOk n := by
  induction m generalizing s with
  | zero =>
    rw [Nat.zero_add]
    exact ⟨fun h => ⟨rfl, h⟩, And.right⟩
  | succ m ih =>
    rw [Nat.succ_add, State.nextOk_succ, State.nextOk_succ, ih, and_assoc]
    rfl

/-- Of a run of ok answers, the two that TICK `k` draws. -/
theorem nextOk_tick {s u : State} {n k : Nat} (h : s.nextOk n) (hk : 2 * k + 2 ≤ n) (hu : u.env = (s.drawn (2 * k)).env) :
    u.nextOk 2 := by
  obtain ⟨r, rfl⟩ := Nat.exists_eq_add_of_le hk
  rw [Nat.add_assoc] at h
  have hrest := ((nextOk_add _ 2 r).mp ((nextOk_add s (2 * k) (2 + r)).mp h).2).1
  rwa [State.nextOk, State.faultsAhead_congr hu]

/-! A session after some TICKs. -/

/-- The session of `s` goes on after `k` TICKs, its cursor at `position`. -/
structure Going (s : State) (k position : Nat) (t : State) : Prop where
  cfg    : t.cfg = s.cfg
  sm     : t.sm = s.sm
  env    : t.env = (s.drawn (2 * k)).env
  cursor : ∃ p : Word, p.toNat = position ∧ t.pbe = { s.pbe with position := p }

theorem Going.start {s : State} (h : s.pbe.position = 0#32) : Going s 0 0 s :=
  ⟨rfl, rfl, rfl, 0#32, rfl, by rw [← h]⟩

/-- The index the next TICK of a session writes. -/
theorem Going.nextIndex_toNat {s t : State} {k position : Nat} (h : Going s k position t) :
    (nextIndex t).toNat = if position = s.pbe.bufLen.toNat then 0 else position := by
  obtain ⟨p, rfl, hpbe⟩ := h.cursor
  simp only [nextIndex, hpbe, ← BitVec.toNat_inj]
  split <;> rfl

/-- A TICK of a session that finds sample `i` puts it out, and the session goes on at the cursor `i + 1`. -/
theorem Going.tick {s t : State} {n k position i : Nat} (h : Going s k position t) (hp : s.pbe.state = .playing)
    (hfit : s.pbe.bufBase.toNat + s.pbe.bufLen.toNat ≤ s.cfg.sampleMemBytes) (hok : s.nextOk n) (hk : 2 * k + 2 ≤ n)
    (hend : position = s.pbe.bufLen.toNat → s.pbe.loop = true)
    (hi : i = if position = s.pbe.bufLen.toNat then 0 else position) (hlt : i < s.pbe.bufLen.toNat) :
    ∃ u, exec .tick t = .next u ∧ Going s (k + 1) (i + 1) u ∧ u.pwm.duty = dutyOf s.cfg (playingSample s i) ∧
      u.trace = okWrite (.duty (dutyOf s.cfg (playingSample s i))) ::
        { access := .fetch (BitVec.ofNat 32 i), ok := true } :: t.trace := by
  have hidx : (nextIndex t).toNat = i := by rw [h.nextIndex_toNat, hi]
  have hword : nextIndex t = BitVec.ofNat 32 i := by rw [← hidx, BitVec.ofNat_toNat, BitVec.setWidth_eq]
  obtain ⟨hcfg, hsm, henv, p, rfl, hpbe⟩ := h
  have hsample : playingSample t (nextIndex t).toNat = playingSample s i := by
    rw [playingSample, playingSample, hsm, hpbe, hidx]
  have hinside : nextIndex t < t.pbe.bufLen := by
    rw [BitVec.lt_def, hidx, hpbe]
    exact hlt
  have htick : exec .tick t = .next (sampledState t (nextIndex t)) := by
    refine tickWritesTheSample t (by rw [hpbe]; exact hp) (fun he => ?_) hinside ?_ (nextOk_tick hok hk henv)
    · rw [hpbe] at he ⊢
      exact hend (congrArg BitVec.toNat he)
    · rw [hidx, hpbe, hcfg]
      dsimp only
      omega
  refine ⟨_, htick, ⟨hcfg, hsm, ?_, nextIndex t + 1#32, ?_, ?_⟩, ?_, ?_⟩
  · rw [show 2 * (k + 1) = 2 * k + 2 by omega, State.drawn_add]
    exact State.drawn_env_congr henv 2
  · rw [toNat_succ_of_lt hinside, hidx]
  · simp only [sampledState, hpbe]
  · simp only [sampledState, hsample, hcfg]
  · rw [sampledState, hsample, hcfg, hword]

/-! The single-shot session. -/

/-- TICK `k` of a single-shot session, up to the last sample. -/
theorem singleShot_at {s : State} (hp : s.pbe.state = .playing) (hpos : s.pbe.position = 0#32)
    (hfit : s.pbe.bufBase.toNat + s.pbe.bufLen.toNat ≤ s.cfg.sampleMemBytes)
    (hok : s.nextOk (2 * s.pbe.bufLen.toNat + 2)) {k : Nat} (hk : k ≤ s.pbe.bufLen.toNat) :
    ∃ t, tickRun k s = .next t ∧ Going s k k t ∧ (1 ≤ k → t.pwm.duty = dutyOf s.cfg (playingSample s (k - 1))) := by
  induction k with
  | zero => exact ⟨s, rfl, .start hpos, fun h => by omega⟩
  | succ k ih =>
    obtain ⟨t, hrun, hgo, -⟩ := ih (by omega)
    obtain ⟨u, htick, hgo', hduty, -⟩ := hgo.tick (i := k) hp hfit hok (by omega) (by omega) (by rw [if_neg (by omega)])
      (by omega)
    exact ⟨u, (tickRun_succ_of_next hrun).trans htick, hgo', fun _ => hduty⟩

/-- A session that has finished, at neutral duty and disarmed (R143). -/
structure FinishedAt (s t : State) : Prop where
  state    : t.pbe.state = .finished
  position : t.pbe.position = s.pbe.bufLen
  duty     : t.pwm.duty = s.cfg.neutral
  armed    : t.timer.armed = false

/-- A TICK after the end changes nothing of it (R142). -/
theorem FinishedAt.tick {s t : State} (h : FinishedAt s t) : ∃ u, exec .tick t = .next u ∧ FinishedAt s u :=
  ⟨_, execTick_of_not_playing (by rw [h.state]; decide), h.state, h.position, h.duty, h.armed⟩

/-- From TICK `N + 1` on a single-shot session is over. -/
theorem singleShot_finished {s : State} (hp : s.pbe.state = .playing) (hl : s.pbe.loop = false)
    (hpos : s.pbe.position = 0#32) (hfit : s.pbe.bufBase.toNat + s.pbe.bufLen.toNat ≤ s.cfg.sampleMemBytes)
    (hok : s.nextOk (2 * s.pbe.bufLen.toNat + 2)) (j : Nat) :
    ∃ t, tickRun (s.pbe.bufLen.toNat + 1 + j) s = .next t ∧ FinishedAt s t := by
  induction j with
  | zero =>
    obtain ⟨t, hrun, ⟨hcfg, -, henv, p, hpt, hpbe⟩, -⟩ := singleShot_at hp hpos hfit hok le_rfl
    have hend : t.pbe.position = t.pbe.bufLen := by rw [hpbe]; exact BitVec.eq_of_toNat_eq hpt
    have htick : exec .tick t = .next (finishedState t) :=
      tickFinishesTheBuffer t (by rw [hpbe]; exact hp) hend (by rw [hpbe]; exact hl) (nextOk_tick hok le_rfl henv)
    exact ⟨_, (tickRun_succ_of_next hrun).trans htick, rfl, hend.trans (by rw [hpbe]), congrArg Params.neutral hcfg, rfl⟩
  | succ j ih =>
    obtain ⟨t, hrun, hfin⟩ := ih
    obtain ⟨u, htick, hfin'⟩ := hfin.tick
    exact ⟨u, (tickRun_succ_of_next hrun).trans htick, hfin'⟩

/-- Settles O34: `N` samples, one a TICK, and the end at TICK `N + 1`. -/
theorem singleShotSessionFinishes : Obligations.SingleShotSessionFinishes := by
  intro s hp hl hpos hfit hok
  refine ⟨fun k h1 hk => ?_, fun k hk => ?_⟩
  · obtain ⟨t, hrun, ⟨-, -, -, p, hpt, hpbe⟩, hduty⟩ := singleShot_at hp hpos hfit hok hk
    exact ⟨t, hrun, by rw [hpbe]; exact hp, by rw [hpbe]; exact hpt, hduty h1⟩
  · obtain ⟨j, rfl⟩ := Nat.exists_eq_add_of_le (Nat.succ_le_of_lt hk)
    obtain ⟨t, hrun, h1, h2, h3, h4⟩ := singleShot_finished hp hl hpos hfit hok j
    exact ⟨t, hrun, h1, h2, h3, h4⟩

/-! The looping session. -/

/-- Where the cursor of a looping session of `n` samples stands after `k` TICKs. -/
def loopPosition (n k : Nat) : Nat :=
  if k = 0 then 0 else (k - 1) % n + 1

/-- The next index of a looping session: the cursor, wrapped at the end, is the number of TICKs mod `n`. -/
theorem loopPosition_wraps {n : Nat} (hn : 0 < n) (k : Nat) :
    k % n = if loopPosition n k = n then 0 else loopPosition n k := by
  cases k with
  | zero =>
    have : loopPosition n 0 = 0 := rfl
    rw [this, if_neg (by omega), Nat.zero_mod]
  | succ j =>
    have : loopPosition n (j + 1) = j % n + 1 := rfl
    rw [this]
    have hlt := Nat.mod_lt j hn
    have hj : j + 1 = n * (j / n) + (j % n + 1) := by rw [← Nat.add_assoc, Nat.div_add_mod]
    rw [hj, Nat.mul_add_mod]
    split
    · rename_i he
      rw [he, Nat.mod_self]
    · exact Nat.mod_eq_of_lt (by omega)

/-- Among the first `k` TICKs of a looping session those at index 0 are every `n`-th, from the first on. -/
theorem roundsBegun_succ {n : Nat} (hn : 0 < n) (k : Nat) :
    (k + 1 + n - 1) / n = (k + n - 1) / n + if k % n = 0 then 1 else 0 := by
  have hdvd : n ∣ k + n ↔ k % n = 0 := by rw [Nat.dvd_add_self_right, Nat.dvd_iff_mod_eq_zero]
  have h := Nat.succ_div (a := k + n - 1) (b := n)
  rw [show k + n - 1 + 1 = k + n by omega] at h
  rw [show k + 1 + n - 1 = k + n by omega, h]
  simp only [hdvd]

/-- A successful fetch of index 0. -/
def fetchZero : AccessEvent := { access := .fetch 0#32, ok := true }

/-- Fetches of index 0 in a TICK's part of the history. -/
theorem count_fetchZero_tick (v : Nat) {i : Nat} (hi : i < 2 ^ 32) (before : List AccessEvent) :
    (okWrite (.duty v) :: { access := .fetch (BitVec.ofNat 32 i), ok := true } :: before).count fetchZero =
      before.count fetchZero + if i = 0 then 1 else 0 := by
  have h : BitVec.ofNat 32 i = 0#32 ↔ i = 0 := by
    rw [← BitVec.toNat_inj, BitVec.toNat_ofNat, Nat.mod_eq_of_lt hi]
    rfl
  simp [List.count_cons, fetchZero, h]

/-- TICK `k` of a looping session. -/
theorem looping_at {s : State} {n : Nat} (hp : s.pbe.state = .playing) (hl : s.pbe.loop = true)
    (hpos : s.pbe.position = 0#32) (hlen : 0 < s.pbe.bufLen.toNat)
    (hfit : s.pbe.bufBase.toNat + s.pbe.bufLen.toNat ≤ s.cfg.sampleMemBytes) (hok : s.nextOk (2 * n)) {k : Nat}
    (hk : k ≤ n) :
    ∃ t, tickRun k s = .next t ∧ Going s k (loopPosition s.pbe.bufLen.toNat k) t ∧
      (1 ≤ k → t.pwm.duty = dutyOf s.cfg (playingSample s ((k - 1) % s.pbe.bufLen.toNat))) ∧
      t.trace.count fetchZero =
        s.trace.count fetchZero + (k + s.pbe.bufLen.toNat - 1) / s.pbe.bufLen.toNat := by
  induction k with
  | zero =>
    refine ⟨s, rfl, .start hpos, fun h => by omega, ?_⟩
    rw [Nat.zero_add, Nat.div_eq_of_lt (by omega), Nat.add_zero]
  | succ k ih =>
    obtain ⟨t, hrun, hgo, -, hcount⟩ := ih (by omega)
    have hlt := Nat.mod_lt k hlen
    obtain ⟨u, htick, hgo', hduty, htrace⟩ := hgo.tick hp hfit hok (by omega) (fun _ => hl)
      (loopPosition_wraps hlen k) hlt
    refine ⟨u, (tickRun_succ_of_next hrun).trans htick, hgo', fun _ => hduty, ?_⟩
    rw [htrace, count_fetchZero_tick _ (by have := s.pbe.bufLen.isLt; omega), hcount, roundsBegun_succ hlen, Nat.add_assoc]

/-- Settles O35: TICK `k` of the run. -/
theorem loopingSessionRepeats : Obligations.LoopingSessionRepeats := by
  intro s n hp hl hpos hlen hfit hok k h1 hk
  obtain ⟨t, hrun, ⟨-, -, -, p, hpt, hpbe⟩, hduty, -⟩ := looping_at hp hl hpos (toNat_pos_of_ne_zero hlen) hfit hok hk
  refine ⟨t, hrun, by rw [hpbe]; exact hp, ?_, hduty h1⟩
  rw [hpbe]
  exact hpt.trans (if_neg (by omega))

/-- Settles O36: three rounds begin in `3N` TICKs. -/
theorem loopVisitsIndexZeroThreeTimes : Obligations.LoopVisitsIndexZeroThreeTimes := by
  intro s hp hl hpos hlen hfit hok
  have hn := toNat_pos_of_ne_zero hlen
  obtain ⟨t, hrun, ⟨-, -, -, p, -, hpbe⟩, -, hcount⟩ := looping_at (n := 3 * s.pbe.bufLen.toNat) hp hl hpos hn hfit
    (by rwa [show 2 * (3 * s.pbe.bufLen.toNat) = 6 * s.pbe.bufLen.toNat by omega]) le_rfl
  refine ⟨t, hrun, by rw [hpbe]; exact hp, ?_⟩
  have hrounds : (3 * s.pbe.bufLen.toNat + s.pbe.bufLen.toNat - 1) / s.pbe.bufLen.toNat = 3 := by
    rw [Nat.add_sub_assoc hn, Nat.add_comm, Nat.add_mul_div_right _ _ hn, Nat.div_eq_of_lt (by omega)]
  rw [hrounds] at hcount
  exact hcount

end Sys2Proof.Proofs.Sessions
end

section
/-! CAPTURE (41_capture.md): its pure functions, its checks and micro-steps, and a whole capture left to itself. -/

namespace Sys2Proof.Proofs.Capture
open Sys2Proof.Machine Sys2Proof.Proofs.Playback Sys2Proof.Proofs.Boundary Sys2Proof.Proofs.Invariant

/-! The clock. -/

/-- `TickDiff` is the balanced remainder mod `M`, which is even (R108, decision D6). -/
theorem tickDiff_eq_bmod (cfg : Params) (a b : Nat) (h : 3 ≤ cfg.tickBits) :
    tickDiff cfg a b = ((a : Int) - b).bmod cfg.modulus := by
  have heven : (cfg.modulus + 1) / 2 = cfg.modulus / 2 := by
    obtain ⟨n, hn⟩ := Nat.exists_eq_add_of_le h
    have : cfg.modulus = 2 * 2 ^ (2 + n) := by rw [Params.modulus, hn, ← pow_succ']; congr 1; omega
    omega
  unfold tickDiff Int.bmod
  have hcast : (((cfg.modulus : Nat) : Int) + 1) / 2 = ((cfg.modulus / 2 : Nat) : Int) := by
    rw [← heven]; rfl
  rw [hcast]

/-- Settles O47: a balanced remainder is in range, congruent, and what a difference of `TICK_BITS`-bit words reads as. -/
theorem tickDiffIsTheSignedDistance : Obligations.TickDiffIsTheSignedDistance := by
  intro cfg a b h ha hb
  have hpos : 0 < cfg.modulus := Nat.two_pow_pos _
  obtain ⟨half, hhalf⟩ : ∃ half, cfg.modulus = 2 * half := by
    obtain ⟨n, hn⟩ := Nat.exists_eq_add_of_le h
    exact ⟨2 ^ (2 + n), by rw [Params.modulus, hn, ← pow_succ']; congr 1; omega⟩
  rw [tickDiff_eq_bmod cfg a b h]
  refine ⟨?_, ?_, ?_, ?_⟩
  · have := Int.le_bmod (x := (a : Int) - b) hpos
    omega
  · have := Int.bmod_lt (x := (a : Int) - b) hpos
    omega
  · rw [Int.sub_emod, Int.bmod_emod, ← Int.sub_emod, Int.sub_self, Int.zero_emod]
  · rw [BitVec.toInt_sub, BitVec.toInt_ofNat', BitVec.toInt_ofNat', Int.sub_bmod_bmod, Int.bmod_sub_bmod]

/-- `Period` with ties to even: with `1000000 = q * r + m`, the remainder decides between `q` and `q + 1` (R109). -/
theorem period_even_cases {cfg : Params} (htie : cfg.roundTie = .even) (r : Nat) :
    (2 * (1000000 % r) < r ∧ period cfg r = 1000000 / r) ∨
    (r < 2 * (1000000 % r) ∧ period cfg r = 1000000 / r + 1) ∨
    (2 * (1000000 % r) = r ∧ 1000000 / r % 2 = 0 ∧ period cfg r = 1000000 / r) ∨
    (2 * (1000000 % r) = r ∧ 1000000 / r % 2 = 1 ∧ period cfg r = 1000000 / r + 1) := by
  unfold period ticksPerSecond
  simp only [htie]
  split_ifs <;> omega

/-- Settles O48: each of the cases of `Period`, as arithmetic on `q`, `m` and the product `q * r`. -/
theorem periodRoundsToNearest : Obligations.PeriodRoundsToNearest := by
  intro cfg r htie hr
  have hdiv := Nat.div_add_mod' 1000000 r
  have hmod := Nat.mod_lt 1000000 hr
  have hq : 1000000 / r = 0 ↔ 1000000 < r := Nat.div_eq_zero_iff_lt hr
  have hcases := period_even_cases htie r
  generalize 1000000 % r = m at *
  generalize 1000000 / r = q at *
  obtain ⟨x, hx⟩ : ∃ x, q * r = x := ⟨_, rfl⟩
  have hnext : (q + 1) * r = x + r := hx ▸ Nat.succ_mul q r
  have hzero : q = 0 → x = 0 := fun h => by rw [← hx, h, Nat.zero_mul]
  rw [hx] at hdiv
  rcases hcases with ⟨h, e⟩ | ⟨h, e⟩ | ⟨h, h2, e⟩ | ⟨h, h2, e⟩
  · rw [e, hx]
    omega
  · rw [e, hnext]
    omega
  · rw [e, hx]
    omega
  · rw [e, hnext]
    omega

/-- Settles O45: the true time grows by the gap, and the reading is its remainder. -/
theorem tickReadingsNeverGoBack : Obligations.TickReadingsNeverGoBack :=
  fun s => ⟨readTick_lt s, Nat.le_add_right _ _, rfl⟩

/-! The checks and the set-up. -/

/-- A region is busy where it overlaps the one being played (R53). -/
theorem regionBusy_of_overlap {s : State} {base len : Nat} (hp : s.pbe.state = .playing) (h1 : 0 < len)
    (h2 : 0 < s.pbe.bufLen.toNat) (h3 : base < s.pbe.bufBase.toNat + s.pbe.bufLen.toNat)
    (h4 : s.pbe.bufBase.toNat < base + len) : regionBusy s base len = true := by
  simp [regionBusy, regionsOverlap, hp, h1, h2, h3, h4]

/-- Settles O40: the checks in order. -/
theorem captureRefusals : Obligations.CaptureRefusals := by
  intro dst sampleRate duration s
  have refused {r : Response} (h : captureCheck dst sampleRate duration s = some r) :
      exec (.capture dst sampleRate duration) s = .next (s.respond r) := by simp only [exec, execCapture, h]
  have fits : regionFits s dst.toNat (captureCount sampleRate duration) = true ↔
      dst.toNat + sampleRate.toNat * duration.toNat ≤ s.cfg.sampleMemBytes := regionFits_iff
  refine ⟨fun hbad => refused ?_, fun h1 h2 h3 h4 hp h5 h6 h7 h8 => refused ?_⟩
  · unfold captureCheck
    split_ifs with h1 h2 h3 h4
    · rfl
    · rfl
    · rfl
    · rfl
    all_goals
      have := fits.mp (by simpa using h4)
      rcases hbad with hb | hb | hb | hb
      · exact absurd hb h1
      · exact absurd hb h2
      · exact absurd hb h3
      · omega
  · have hbusy : regionBusy s dst.toNat (captureCount sampleRate duration) = true :=
      regionBusy_of_overlap hp h5 h6 h7 h8
    simp only [captureCheck, if_neg h1, if_neg h2, if_neg (not_le.mpr h3), fits.mpr h4, hbusy, Bool.not_true,
      Bool.false_eq_true, if_false, if_true]

/-- Settles O41: the checks pass, and the count register decides between the busy-wait and the response. -/
theorem captureSetsUp : Obligations.CaptureSetsUp := by
  intro dst sampleRate duration s h1 h2 h3 h4 h5
  refine ⟨countRegister s.env.draws sampleRate duration, fun hlt => ?_, ?_⟩
  · rw [countRegister_of_lt hlt, BitVec.toNat_ofNat]
    exact Nat.mod_eq_of_lt hlt
  · rcases execCapture_cases dst sampleRate duration s with ⟨r, hc, -⟩ | ⟨-, e⟩
    · rw [captureCheck_eq_none.mpr ⟨h1, h2, h3, h4, h5⟩] at hc
      cases hc
    · rw [e, captureSetup_eq]
      by_cases h0 : countRegister s.env.draws sampleRate duration = 0#32
      · simp only [if_pos h0]
        rw [h0]
        simp only [State.respond, State.setCap, captureOpened, h0]
        rfl
      · simp only [if_neg h0]
        rfl

/-! The micro-steps. -/

/-- Settles O42: one poll. -/
theorem capturePolls : Obligations.CapturePolls := by
  intro dst s hq hfg
  rw [step_of_quiet hq]
  simp only [foregroundStep, hfg, capturePoll_eq]
  split
  · rfl
  · rw [← hfg]
    rfl

/-- Settles O43: one reading stored, and the capture goes on or ends. -/
theorem captureTakesOneSample : Obligations.CaptureTakesOneSample := by
  intro dst s hq hfg hidx hfit
  have hlt := BitVec.lt_def.mp hidx
  have hstep : step s = captureTake dst s := by
    rw [step_of_quiet hq]
    simp only [foregroundStep, hfg]
  rcases captureTake_cases dst s with ⟨hout, -⟩ | ⟨-, s1, hs1, e⟩
  · omega
  refine ⟨_, hstep.trans e, ?_⟩
  have hnext := toNat_succ_of_lt hidx
  have hgo : s.cap.index + 1#32 < s.cap.count ↔ s.cap.index.toNat + 1 < s.cap.count.toNat := by
    rw [BitVec.lt_def, hnext]
  have hread : s1.sm.read (dst.toNat + s.cap.index.toNat) = quantize s.cfg s.readAdc.1 := by
    rw [hs1]; exact SampleMem.read_write_same _ _ _
  have hother (a : Nat) (ha : a ≠ dst.toNat + s.cap.index.toNat) : s1.sm.read a = s.sm.read a := by
    rw [hs1]; exact SampleMem.read_write_ne _ _ ha
  by_cases hg : s.cap.index + 1#32 < s.cap.count
  · rw [if_pos hg]
    have hcmd : s1.cmd = s.cmd := by rw [hs1]; rfl
    refine ⟨?_, hread, hother, fun _ => ⟨rfl, hcmd⟩, fun hend => ?_, ?_⟩
    · rw [hs1]; rfl
    · have := hgo.mp hg
      omega
    · simp [hs1]
  · rw [if_neg hg]
    refine ⟨?_, hread, hother, fun h => absurd (hgo.mpr h) hg, fun _ => ⟨rfl, ?_⟩, ?_⟩
    · rw [hs1]; rfl
    · rw [hs1]; rfl
    · simp [hs1]

/-! A capture left to itself. -/

/-- One step more, at the end of a run that went on. -/
theorem stepRun_succ_of_next {n : Nat} {s u : State} (h : stepRun n s = .next u) : stepRun (n + 1) s = step u := by
  induction n generalizing s with
  | zero =>
    obtain rfl := Host.Outcome.next.inj h
    rw [stepRun]
    cases step s <;> rfl
  | succ n ih =>
    rw [stepRun] at h ⊢
    cases he : step s with
    | next v => rw [he] at h; exact ih h
    | fault f => rw [he] at h; cases h
    | refused r => rw [he] at h; cases h

/-- The capture begun in `s` has filled `k` slots and stands in `t` (R114, R115). -/
structure FilledTo (dst : Word) (s : State) (k : Nat) (t : State) : Prop where
  le       : k ≤ s.cap.count.toNat
  cap      : t.cap = { s.cap with
               nextDeadline := (s.cap.nextDeadline + k * s.cap.period) % s.cfg.modulus, index := BitVec.ofNat 32 k }
  filled   : ∀ i, i < k → t.sm.read (dst.toNat + i) =
               quantize s.cfg (s.env.adcReadings.getD i 0 % 2 ^ s.cfg.adcBits)
  outside  : ∀ a, a < dst.toNat ∨ dst.toNat + k ≤ a → t.sm.read a = s.sm.read a
  going    : k < s.cap.count.toNat → (t.fg = .captureWait dst ∨ t.fg = .captureTake dst) ∧ t.cmd = s.cmd
  ended    : k = s.cap.count.toNat → t.fg = .idle ∧ t.cmd = { s.cmd with tx := s.cmd.tx ++ [.captured s.cap.count] }
  readings : t.env.adcReadings = s.env.adcReadings.drop k
  quiet    : t.quiet
  kept     : t.pbe = s.pbe ∧ t.timer = s.timer ∧ t.pwm = s.pwm ∧ t.cfg = s.cfg ∧ t.flt = s.flt ∧ t.wvc = s.wvc ∧
               t.wd = s.wd ∧ t.boot = s.boot ∧ t.storage = s.storage

theorem FilledTo.start {dst : Word} {s : State} (hq : s.quiet) (hfg : s.fg = .captureWait dst)
    (hidx : s.cap.index = 0#32) (hcount : s.cap.count ≠ 0#32) (hnow : s.cap.nextDeadline < s.cfg.modulus) :
    FilledTo dst s 0 s where
  le := Nat.zero_le _
  cap := by
    rw [Nat.zero_mul, Nat.add_zero, Nat.mod_eq_of_lt hnow, ← hidx]
  filled := fun i hi => by omega
  outside := fun _ _ => rfl
  going := fun _ => ⟨.inl hfg, rfl⟩
  ended := fun h => absurd (BitVec.eq_of_toNat_eq h.symm) hcount
  readings := rfl
  quiet := hq
  kept := ⟨rfl, rfl, rfl, rfl, rfl, rfl, rfl, rfl, rfl⟩

/-- A poll fills no slot. -/
theorem FilledTo.poll {dst : Word} {s t : State} {k : Nat} (h : FilledTo dst s k t) (hfg : t.fg = .captureWait dst)
    (hk : k < s.cap.count.toNat) : ∃ u, step t = .next u ∧ FilledTo dst s k u := by
  refine ⟨_, capturePolls dst t h.quiet hfg, h.le, h.cap, h.filled, h.outside, fun _ => ⟨?_, (h.going hk).2⟩,
    fun he => by omega, h.readings, h.quiet, h.kept⟩
  dsimp only
  split
  · exact .inr rfl
  · exact .inl rfl

/-- The reading that fills slot `k`. -/
theorem FilledTo.reading {dst : Word} {s t : State} {k : Nat} (h : FilledTo dst s k t)
    (hk : k < s.env.adcReadings.length) : t.readAdc.1 = s.env.adcReadings.getD k 0 % 2 ^ s.cfg.adcBits ∧
      t.readAdc.2.env.adcReadings = s.env.adcReadings.drop (k + 1) := by
  obtain ⟨-, -, -, hcfg, -⟩ := h.kept
  have hfront := h.readings
  rw [List.drop_eq_getElem_cons hk] at hfront
  refine ⟨?_, ?_⟩ <;> simp only [State.readAdc, hfront, takeFront, hcfg, List.getD_eq_getElem _ _ hk, State.note_env]

/-- Taking a sample fills the next slot, and the last one ends the capture. -/
theorem FilledTo.take {dst : Word} {s t : State} {k : Nat} (h : FilledTo dst s k t) (hfg : t.fg = .captureTake dst)
    (hk : k < s.cap.count.toNat) (hfit : dst.toNat + s.cap.count.toNat ≤ s.cfg.sampleMemBytes)
    (hlen : s.cap.count.toNat ≤ s.env.adcReadings.length) : ∃ u, step t = .next u ∧ FilledTo dst s (k + 1) u := by
  have hcount := s.cap.count.isLt
  have hword : (BitVec.ofNat 32 k).toNat = k := by rw [BitVec.toNat_ofNat, Nat.mod_eq_of_lt (by omega)]
  have hidx : t.cap.index.toNat = k := by rw [h.cap]; exact hword
  have hcnt : t.cap.count = s.cap.count := by rw [h.cap]
  obtain ⟨hpbe, htimer, hpwm, hcfg, hflt, hwvc, hwd, hboot, hst⟩ := h.kept
  obtain ⟨hval, hrest⟩ := h.reading (by omega)
  obtain ⟨u, hstep, hcap, hread, hother, hgoing, hended, henv, -, kpbe, ktimer, kpwm, kcfg, kflt, kwvc, kwd, kboot, kst,
    kcancel⟩ := captureTakesOneSample dst t h.quiet hfg (by rw [BitVec.lt_def, hidx, hcnt]; exact hk)
      (by rw [hcnt, hcfg]; exact hfit)
  rw [hidx] at hread hother hgoing hended
  rw [hcnt] at hgoing hended
  refine ⟨u, hstep, hk, ?_, ?_, ?_, fun hlt => ?_, fun he => ?_, ?_, ?_, ?_⟩
  · rw [hcap, h.cap, hcfg]
    simp only [tickAdd, Nat.mod_add_mod, Cap.mk.injEq, and_true, true_and]
    refine ⟨by rw [Nat.add_assoc, ← Nat.succ_mul], BitVec.eq_of_toNat_eq ?_⟩
    rw [BitVec.toNat_add, hword, BitVec.toNat_ofNat]
    rfl
  · intro i hi
    by_cases he : i = k
    · rw [he, hread, hval, hcfg]
    · rw [hother _ (by omega), h.filled i (by omega)]
  · intro a ha
    rw [hother a (by omega), h.outside a (by omega)]
  · obtain ⟨h1, h2⟩ := hgoing hlt
    exact ⟨.inl h1, h2.trans (h.going hk).2⟩
  · obtain ⟨h1, h2⟩ := hended he
    exact ⟨h1, by rw [h2, (h.going hk).2]⟩
  · rw [henv, hrest]
  · obtain ⟨hb, hp, hc⟩ := h.quiet
    exact ⟨by rw [henv]; exact hb, by rw [ktimer]; exact hp, by rw [kcancel]; exact hc⟩
  · exact ⟨kpbe.trans hpbe, ktimer.trans htimer, kpwm.trans hpwm, kcfg.trans hcfg, kflt.trans hflt, kwvc.trans hwvc,
      kwd.trans hwd, kboot.trans hboot, kst.trans hst⟩

/-- A capture that has ended, with no command waiting, stays as it is. -/
theorem FilledTo.rest {dst : Word} {s t : State} {k : Nat} (h : FilledTo dst s k t) (hrx : s.cmd.rx = [])
    (hk : k = s.cap.count.toNat) : step t = .next t := by
  obtain ⟨hfg, hcmd⟩ := h.ended hk
  refine (stepAtReservedOrIncompleteFrame t h.quiet hfg).2 ?_
  rw [hcmd]
  simp only [hrx]
  rfl

/-- Whatever the step, the capture goes on or is at rest. -/
theorem FilledTo.step {dst : Word} {s t : State} {k : Nat} (h : FilledTo dst s k t) (hrx : s.cmd.rx = [])
    (hfit : dst.toNat + s.cap.count.toNat ≤ s.cfg.sampleMemBytes)
    (hlen : s.cap.count.toNat ≤ s.env.adcReadings.length) :
    ∃ u k', Machine.step t = .next u ∧ FilledTo dst s k' u := by
  rcases Nat.lt_or_eq_of_le h.le with hk | hk
  · rcases (h.going hk).1 with hfg | hfg
    · obtain ⟨u, hs, hu⟩ := h.poll hfg hk
      exact ⟨u, k, hs, hu⟩
    · obtain ⟨u, hs, hu⟩ := h.take hfg hk hfit hlen
      exact ⟨u, k + 1, hs, hu⟩
  · exact ⟨t, k, h.rest hrx hk, h⟩

/-- Settles O44: an induction over the steps. -/
theorem captureFillsSlotsInOrder : Obligations.CaptureFillsSlotsInOrder := by
  intro dst s n hq hrx hfg hidx hcount hnow hfit hlen
  have run : ∃ t k, stepRun n s = .next t ∧ FilledTo dst s k t := by
    induction n with
    | zero => exact ⟨s, 0, rfl, .start hq hfg hidx hcount hnow⟩
    | succ n ih =>
      obtain ⟨t, k, hrun, h⟩ := ih
      obtain ⟨u, k', hstep, hu⟩ := h.step hrx hfit hlen
      exact ⟨u, k', (stepRun_succ_of_next hrun).trans hstep, hu⟩
  obtain ⟨t, k, hrun, h⟩ := run
  exact ⟨t, k, hrun, h.le, h.cap, h.filled, h.outside, h.going, h.ended, h.readings, h.kept⟩

end Sys2Proof.Proofs.Capture
end

section
/-! SMOOTH (42_filter.md): its checks, the running average its loop stores, and what the average is. -/

namespace Sys2Proof.Proofs.Filter
open Sys2Proof.Machine Sys2Proof.Proofs.Capture Sys2Proof.Proofs.Invariant

/-! The checks. -/

theorem alphaAdmitted_iff {cfg : Params} {alphaQ : Word} :
    alphaAdmitted cfg alphaQ = true ↔ alphaQ ≠ 0#32 ∧ alphaQ.toNat ≤ 2 ^ cfg.alphaFracBits := by
  rw [alphaAdmitted, Bool.and_eq_true, decide_eq_true_eq, decide_eq_true_eq, Nat.one_le_iff_ne_zero, ne_eq, ne_eq,
    ← BitVec.toNat_inj]
  rfl

/-- Settles O50: the checks in order. -/
theorem smoothRefusals : Obligations.SmoothRefusals := by
  intro base len alphaQ s
  have refused {r : Response} (h : smoothCheck base len alphaQ s = some r) :
      exec (.smooth base len alphaQ) s = .next (s.respond r) := by simp only [exec, execSmooth, h]
  refine ⟨fun hbad => refused ?_, fun h1 h2 h3 hp h4 h5 h6 h7 => refused ?_⟩
  · unfold smoothCheck
    split_ifs with ha hf
    · rfl
    · rfl
    all_goals
      have hfit := regionFits_iff.mp (by simpa using hf)
      obtain ⟨h0, h1⟩ := alphaAdmitted_iff.mp (by simpa using ha)
      rcases hbad with hb | hb | hb
      · exact absurd hb h0
      · omega
      · omega
  · have hbusy : regionBusy s base.toNat len.toNat = true := regionBusy_of_overlap hp h4 h5 h6 h7
    simp only [smoothCheck, alphaAdmitted_iff.mpr ⟨h1, h2⟩, regionFits_iff.mpr h3, hbusy, Bool.not_true,
      Bool.false_eq_true, if_false, if_true]

/-! The loop. -/

/-- The loop from sample `j` on, where the samples after it still stand in memory: the accumulator is the average of the
samples as they were, and each byte its floor (R122, R125). -/
theorem smoothLoop_average (alpha : Rat) (x : Nat → Byte) (base n j : Nat) (m : SampleMem)
    (hx : ∀ i, j < i → i ≤ j + n → m.read (base + i) = x i) :
    (smoothLoop alpha n (base + (j + 1)) (runningAverage alpha x j) m).1 = runningAverage alpha x (j + n) ∧
    ∀ i, j < i → i ≤ j + n → (smoothLoop alpha n (base + (j + 1)) (runningAverage alpha x j) m).2.read (base + i) =
      smoothByte (runningAverage alpha x i) := by
  induction n generalizing j m with
  | zero => exact ⟨rfl, fun i h1 h2 => by omega⟩
  | succ n ih =>
    have hy : smoothStep alpha (runningAverage alpha x j) (m.read (base + (j + 1))) = runningAverage alpha x (j + 1) := by
      rw [hx (j + 1) (by omega) (by omega), runningAverage]
    rw [smoothLoop, hy]
    obtain ⟨h1, h2⟩ := ih (j + 1) (m.write (base + (j + 1)) (smoothByte (runningAverage alpha x (j + 1))))
      fun i hi hle => by rw [SampleMem.read_write_ne _ _ (by omega), hx i (by omega) (by omega)]
    refine ⟨by rw [show base + (j + 1) + 1 = base + (j + 1 + 1) by omega, h1]; congr 1; omega, fun i hi hle => ?_⟩
    rw [show base + (j + 1) + 1 = base + (j + 1 + 1) by omega]
    by_cases he : i = j + 1
    · rw [he, smoothLoop_read_outside _ _ _ _ _ _ (by omega), SampleMem.read_write_same]
    · exact h2 i (by omega) (by omega)

/-- The samples of a region as SMOOTH finds them. -/
def regionSamples (s : State) (base : Word) (i : Nat) : Byte :=
  s.sm.read (base.toNat + i)

/-- What SMOOTH leaves of a buffer that is not empty. -/
theorem smoothBuffer_average (base len : Word) (alpha : Rat) (s : State) :
    (smoothBuffer base len alpha s).flt.y = runningAverage alpha (regionSamples s base) (len.toNat - 1) ∧
    ∀ i, 1 ≤ i → i < len.toNat → (smoothBuffer base len alpha s).sm.read (base.toNat + i) =
      smoothByte (runningAverage alpha (regionSamples s base) i) := by
  obtain ⟨h1, h2⟩ := smoothLoop_average alpha (regionSamples s base) base.toNat (len.toNat - 1) 0 s.sm
    fun _ _ _ => rfl
  simp only [Nat.zero_add] at h1 h2
  exact ⟨h1, fun i hi hlt => h2 i hi (by omega)⟩

/-- SMOOTH does not write its first sample (R122). -/
theorem smoothBuffer_read_first (base len : Word) (alpha : Rat) (s : State) (a : Nat)
    (h : a ≤ base.toNat ∨ base.toNat + len.toNat ≤ a) : (smoothBuffer base len alpha s).sm.read a = s.sm.read a :=
  smoothLoop_read_outside _ _ _ _ _ _ (by omega)

/-- Settles O51: refused never, and an empty buffer or the loop. -/
theorem smoothStoresTheRunningAverage : Obligations.SmoothStoresTheRunningAverage := by
  intro base len alphaQ s ha hle hfit hbusy
  rcases execSmooth_cases base len alphaQ s with ⟨r, hc, -⟩ | ⟨-, rfl, e⟩ | ⟨-, hl, e⟩
  · rw [smoothCheck_eq_none.mpr ⟨alphaAdmitted_iff.mpr ⟨ha, hle⟩, hfit, hbusy⟩] at hc
    cases hc
  · exact ⟨_, e, fun i h1 h2 => absurd h2 (by simp), fun _ _ => rfl, fun h => absurd rfl h, fun _ => rfl, rfl,
      ⟨rfl, rfl, rfl, rfl⟩, rfl, rfl, rfl, rfl, rfl, rfl, rfl, rfl, rfl⟩
  · obtain ⟨hy, hbytes⟩ := smoothBuffer_average base len (alphaOf s.cfg alphaQ) s
    obtain ⟨hframe, hst, hcmd, hwd, hwvc, henv⟩ := smoothBuffer_frame base len (alphaOf s.cfg alphaQ) s
    exact ⟨_, e, hbytes, smoothBuffer_read_first base len _ s, fun _ => ⟨hy, rfl⟩, fun h => absurd h hl,
      by rw [State.respond_cmd, hcmd], hframe.playback, hframe.cfg, hframe.cap, hwvc, hwd, hframe.boot, hframe.fg,
      hframe.cancel, hst, henv⟩

/-! The average. -/

theorem alphaOf_pos {cfg : Params} {alphaQ : Word} (h : alphaAdmitted cfg alphaQ = true) : 0 < alphaOf cfg alphaQ := by
  have h0 := toNat_pos_of_ne_zero (alphaAdmitted_iff.mp h).1
  have h2 : 0 < 2 ^ cfg.alphaFracBits := Nat.two_pow_pos _
  exact div_pos (by exact_mod_cast h0) (by exact_mod_cast h2)

theorem alphaOf_le_one {cfg : Params} {alphaQ : Word} (h : alphaAdmitted cfg alphaQ = true) : alphaOf cfg alphaQ ≤ 1 := by
  have h2 : 0 < 2 ^ cfg.alphaFracBits := Nat.two_pow_pos _
  exact (div_le_one (by exact_mod_cast h2)).mpr (by exact_mod_cast (alphaAdmitted_iff.mp h).2)

theorem sample_le (x : Byte) : (x.toNat : Rat) ≤ 255 := by exact_mod_cast Nat.le_of_lt_succ x.isLt

/-- An average of values in a range is in it (R126). -/
theorem smoothStep_mem {alpha y : Rat} (x : Byte) (h0 : 0 < alpha) (h1 : alpha ≤ 1) (hy : 0 ≤ y ∧ y ≤ 255) :
    0 ≤ smoothStep alpha y x ∧ smoothStep alpha y x ≤ 255 := by
  have hx0 : (0 : Rat) ≤ (x.toNat : Rat) := Nat.cast_nonneg _
  have hx1 := sample_le x
  have hb : 0 ≤ 1 - alpha := by linarith
  have hyl := mul_nonneg hy.1 hb
  have hyu := mul_le_mul_of_nonneg_right hy.2 hb
  have hxl := mul_nonneg hx0 h0.le
  have hxu := mul_le_mul_of_nonneg_right hx1 h0.le
  unfold smoothStep
  constructor <;> linarith

theorem runningAverage_mem {alpha : Rat} (x : Nat → Byte) (n : Nat) (h0 : 0 < alpha) (h1 : alpha ≤ 1) :
    0 ≤ runningAverage alpha x n ∧ runningAverage alpha x n ≤ 255 := by
  induction n with
  | zero => exact ⟨Nat.cast_nonneg _, sample_le (x 0)⟩
  | succ n ih => exact smoothStep_mem _ h0 h1 ih

/-- The stored byte is the floor where the floor is a byte. -/
theorem smoothByte_toNat {y : Rat} (h0 : 0 ≤ y) (h1 : y ≤ 255) : ((smoothByte y).toNat : Int) = y.floor := by
  have hl : 0 ≤ y.floor := Rat.le_floor_iff.mpr (by exact_mod_cast h0)
  have hu : y.floor ≤ 255 := by
    have : ((y.floor : Int) : Rat) ≤ 255 := le_trans (Rat.floor_le y) h1
    exact_mod_cast this
  rw [smoothByte, BitVec.toNat_ofInt]
  omega

/-- Settles O52: the average is in range, by induction over the samples. -/
theorem smoothStaysInRange : Obligations.SmoothStaysInRange := by
  intro cfg alphaQ x n h
  obtain ⟨h0, h1⟩ := runningAverage_mem x n (alphaOf_pos h) (alphaOf_le_one h)
  exact ⟨h0, h1, smoothByte_toNat h0 h1⟩

/-! The fixed points. -/

/-- A sample's own value is stored as the sample. -/
theorem smoothByte_of_sample (x : Byte) : smoothByte (x.toNat : Rat) = x := by
  have h := smoothByte_toNat (y := (x.toNat : Rat)) (Nat.cast_nonneg _) (sample_le x)
  have hf : ((x.toNat : Nat) : Rat).floor = (x.toNat : Int) := by exact_mod_cast Rat.floor_intCast (x.toNat : Int)
  rw [hf] at h
  exact BitVec.eq_of_toNat_eq (by exact_mod_cast h)

/-- With `alpha = 1` the average is the last sample (R129). -/
theorem runningAverage_one (x : Nat → Byte) (i : Nat) : runningAverage 1 x i = ((x i).toNat : Rat) := by
  cases i with
  | zero => rfl
  | succ i => rw [runningAverage, smoothStep]; ring

/-- The average of equal samples is their value (R129). -/
theorem runningAverage_constant {alpha : Rat} {x : Nat → Byte} {b : Byte} {i : Nat} (h : ∀ j, j ≤ i → x j = b) :
    runningAverage alpha x i = (b.toNat : Rat) := by
  induction i with
  | zero => rw [runningAverage, h 0 le_rfl]
  | succ i ih =>
    rw [runningAverage, ih fun j hj => h j (by omega), h (i + 1) le_rfl, smoothStep]
    ring

theorem alphaOf_eq_one {cfg : Params} {alphaQ : Word} (h : alphaQ.toNat = 2 ^ cfg.alphaFracBits) :
    alphaOf cfg alphaQ = 1 := by
  rw [alphaOf, h]
  exact div_self (by exact_mod_cast (Nat.two_pow_pos _).ne')

/-- Settles O53: where the average is the sample itself, its byte is stored back. -/
theorem smoothFixedPoints : Obligations.SmoothFixedPoints := by
  intro base len alphaQ s t hadm hfix h a
  rcases execSmooth_cases base len alphaQ s with ⟨r, -, e⟩ | ⟨-, -, e⟩ | ⟨-, -, e⟩ <;>
    obtain rfl := Host.Outcome.next.inj (e.symm.trans h)
  · rfl
  · rfl
  · by_cases hout : a ≤ base.toNat ∨ base.toNat + len.toNat ≤ a
    · exact smoothBuffer_read_first base len _ s a hout
    · obtain ⟨i, rfl⟩ := Nat.exists_eq_add_of_le (show base.toNat ≤ a by omega)
      have hi : i < len.toNat := by omega
      have haverage : runningAverage (alphaOf s.cfg alphaQ) (regionSamples s base) i =
          ((regionSamples s base i).toNat : Rat) := by
        rcases hfix with hone | ⟨b, hb⟩
        · rw [alphaOf_eq_one hone, runningAverage_one]
        · rw [runningAverage_constant (x := regionSamples s base) (b := b) fun j hj => hb j (by omega), regionSamples, hb i hi]
      refine ((smoothBuffer_average base len (alphaOf s.cfg alphaQ) s).2 i (by omega) hi).trans ?_
      rw [haverage, smoothByte_of_sample, regionSamples]

end Sys2Proof.Proofs.Filter
end

section
/-! The container (30_encoding.md sections 5 and 6): what the reader gives on a stream of the grammar, and how it rejects
the others. -/

namespace Sys2Proof.Proofs.Container
open Sys2Proof.Machine Sys2Proof.Proofs.Encoding

/-! Reading at offsets. -/

theorem takeAt_of_le {stream : List Byte} {off k : Nat} (h : off + k ≤ stream.length) :
    takeAt stream off k = some ((stream.drop off).take k) := if_pos h

/-- A whole tag that stands at an offset is inside the stream. -/
theorem le_length_of_take {stream tag : List Byte} {off : Nat} (h : (stream.drop off).take 4 = tag)
    (ht : tag.length = 4) : off + 4 ≤ stream.length := by
  have := congrArg List.length h
  rw [ht, List.length_take, List.length_drop] at this
  omega

/-- The field of four taken bytes is the field at their offset. -/
theorem field32_take {stream : List Byte} {off : Nat} (h : off + 4 ≤ stream.length) :
    field32 ((stream.drop off).take 4) 0 = field32 stream off := by
  rw [← le32_field32 h, field32_le32]

/-! The checks before the chunk scan (R91, R92, R93). -/

/-- The stream begins with its three markers in place. -/
def markersStand (stream : List Byte) : Prop :=
  stream.take 4 = tagRiff ∧ (stream.drop 8).take 4 = tagWave ∧ (stream.drop 12).take 4 = tagFmt

theorem readWav_badRiff {stream : List Byte} (h : stream.take 4 ≠ tagRiff) :
    ∃ off, readWav stream = .bad off .badRiffMarker := by
  by_cases hl : 0 + 4 ≤ stream.length
  · exact ⟨4, by rw [readWav, takeAt_of_le hl, List.drop_zero]; exact if_pos h⟩
  · exact ⟨0, by rw [readWav, takeAt_short (by omega)]⟩

/-- A tag that stands at an offset is what `Take(4)` gives there. -/
theorem takeAt_tag {stream tag : List Byte} {off : Nat} (h : (stream.drop off).take 4 = tag) (ht : tag.length = 4) :
    takeAt stream off 4 = some tag := by
  rw [takeAt_of_le (le_length_of_take h ht), h]

theorem readWav_sizeCut {stream : List Byte} (h : stream.take 4 = tagRiff) (h8 : stream.length < 8) :
    ∃ off, readWav stream = .bad off .fmtTruncated := by
  have t0 : takeAt stream 0 4 = some tagRiff := takeAt_tag h rfl
  have t4 : takeAt stream 4 4 = none := takeAt_short h8
  exact ⟨4, by simp only [readWav, t0, t4, ne_eq, not_true_eq_false, if_false]⟩

theorem readWav_badWave {stream : List Byte} (h : stream.take 4 = tagRiff) (h8 : 8 ≤ stream.length)
    (hw : (stream.drop 8).take 4 ≠ tagWave) : ∃ off, readWav stream = .bad off .badWaveMarker := by
  have t0 : takeAt stream 0 4 = some tagRiff := takeAt_tag h rfl
  have t4 := takeAt_of_le (stream := stream) (off := 4) (k := 4) h8
  by_cases hl : 8 + 4 ≤ stream.length
  · have t8 := takeAt_of_le hl
    exact ⟨12, by simp only [readWav, t0, t4, t8, hw, ne_eq, not_true_eq_false, not_false_eq_true, if_false, if_true]⟩
  · have t8 : takeAt stream 8 4 = none := takeAt_short (by omega)
    exact ⟨8, by simp only [readWav, t0, t4, t8, ne_eq, not_true_eq_false, if_false]⟩

theorem readWav_badFmt {stream : List Byte} (h : stream.take 4 = tagRiff) (hw : (stream.drop 8).take 4 = tagWave)
    (hf : (stream.drop 12).take 4 ≠ tagFmt) : ∃ off, readWav stream = .bad off .badFmtMarker := by
  have h12 : 8 + 4 ≤ stream.length := le_length_of_take hw rfl
  have t0 : takeAt stream 0 4 = some tagRiff := takeAt_tag h rfl
  have t4 := takeAt_of_le (stream := stream) (off := 4) (k := 4) (by omega)
  have t8 := takeAt_tag hw rfl
  by_cases hl : 12 + 4 ≤ stream.length
  · have t12 := takeAt_of_le hl
    exact ⟨16, by simp only [readWav, t0, t4, t8, t12, hf, ne_eq, not_true_eq_false, not_false_eq_true, if_false, if_true]⟩
  · have t12 : takeAt stream 12 4 = none := takeAt_short (by omega)
    exact ⟨12, by simp only [readWav, t0, t4, t8, t12, ne_eq, not_true_eq_false, if_false]⟩

theorem readWav_of_markers {stream : List Byte} (h : markersStand stream) : readWav stream = readFmtChunk stream := by
  obtain ⟨h1, h2, h3⟩ := h
  have h16 : 12 + 4 ≤ stream.length := le_length_of_take h3 rfl
  have t0 : takeAt stream 0 4 = some tagRiff := takeAt_tag h1 rfl
  have t4 := takeAt_of_le (stream := stream) (off := 4) (k := 4) (by omega)
  have t8 := takeAt_tag h2 rfl
  have t12 := takeAt_tag h3 rfl
  simp only [readWav, t0, t4, t8, t12, ne_eq, not_true_eq_false, if_false]

/-- A format sub-chunk that is cut or too small (R93). -/
theorem readFmtChunk_truncated {stream : List Byte} (h : stream.length < 20 ∨ (field32 stream 16).toNat < 16 ∨
    stream.length < 20 + (field32 stream 16).toNat) : ∃ off, readFmtChunk stream = .bad off .fmtTruncated := by
  by_cases h20 : stream.length < 20
  · exact ⟨16, by rw [readFmtChunk, takeAt_short (by omega)]⟩
  · have hsize := field32_take (stream := stream) (off := 16) (by omega)
    rw [readFmtChunk, takeAt_of_le (by omega)]
    simp only [hsize]
    by_cases h16 : (field32 stream 16).toNat < 16
    · exact ⟨20, if_pos h16⟩
    · exact ⟨20, by rw [if_neg h16, takeAt_short (by omega)]⟩

/-! The chunk scan (R94, R95). -/

/-- The scan where fewer bytes are left than a chunk's head. -/
theorem scanChunks_short (before rest : List Byte) (rate : Word) (fuel : Nat) (h : rest.length < 8) :
    ∃ off, scanChunks (before ++ rest) rate (fuel + 1) before.length = .bad off .dataChunkMissing := by
  rw [scanChunks]
  by_cases h4 : rest.length < 4
  · exact ⟨before.length, by rw [takeAt_short (by simpa using h4)]⟩
  · rw [takeAt_of_le (by simp; omega), takeAt_short (by simp; omega)]
    exact ⟨_, rfl⟩

/-- The scan at a chunk whose payload is cut. -/
theorem scanChunks_cut (before tag payload : List Byte) (n rate : Word) (fuel : Nat) (ht : tag.length = 4)
    (hp : payload.length < n.toNat) :
    ∃ off, scanChunks (before ++ (tag ++ le32 n ++ payload)) rate (fuel + 1) before.length =
      .bad off (if tag = tagData then .dataTruncated else .dataChunkMissing) := by
  have h1 : takeAt (before ++ (tag ++ le32 n ++ payload)) before.length 4 = some tag := by
    simpa [List.append_assoc] using takeAt_append before tag (le32 n ++ payload) rfl ht
  have h2 : takeAt (before ++ (tag ++ le32 n ++ payload)) (before.length + 4) 4 = some (le32 n) := by
    simpa [List.append_assoc] using takeAt_append (before ++ tag) (le32 n) payload (by simp [ht]) rfl
  have hcut : (before ++ (tag ++ le32 n ++ payload)).length < before.length + 8 + n.toNat := by
    simp [ht]
    omega
  rw [scanChunks, h1]
  simp only [h2, field32_le32, if_pos hcut]
  by_cases hd : tag = tagData
  · exact ⟨before.length + 8, by rw [if_pos hd, if_pos hd]⟩
  · exact ⟨before.length + 8, by rw [if_neg hd, if_neg hd]⟩

/-- The bytes of a stream of the grammar before what follows its skipped chunks. -/
def headOf (z : Word) (fmt : List Byte) (skipped : List (List Byte × List Byte)) : List Byte :=
  tagRiff ++ le32 z ++ tagWave ++ chunkBytes tagFmt fmt ++ (skipped.map fun c => chunkBytes c.1 c.2).flatten

/-- Every skipped chunk is at least its head long. -/
theorem length_skipped_le {skipped : List (List Byte × List Byte)} (h : skippable skipped) :
    skipped.length ≤ (skipped.map fun c => chunkBytes c.1 c.2).flatten.length := by
  induction skipped with
  | nil => exact Nat.zero_le _
  | cons c rest ih =>
    have hc : c.1.length = 4 := (h c (by simp)).1
    have hrest := ih fun d hd => h d (by simp [hd])
    have hhead : 4 ≤ (chunkBytes c.1 c.2).length := by simp [chunkBytes, hc]
    rw [List.length_cons, List.map_cons, List.flatten_cons, List.length_append]
    omega

/-- A stream with a format record that passes its checks is read as far as the scan of what follows the skipped chunks. -/
theorem readWav_scans (z rate byteRate : Word) (align : BitVec 16) (extra rest : List Byte)
    (skipped : List (List Byte × List Byte)) (hextra : extra.length + 16 < 2 ^ 32) (hskip : skippable skipped) :
    ∃ before fuel, before = headOf z (formatPayload 1#16 1#16 rate byteRate align 8#16 extra) skipped ∧
      readWav (streamOf z (formatPayload 1#16 1#16 rate byteRate align 8#16 extra) skipped rest) =
        scanChunks (before ++ rest) rate (fuel + 1) before.length := by
  obtain ⟨hfmt, hch, hrate, hbits, hlen⟩ := formatPayload_fields 1#16 1#16 rate byteRate align 8#16 extra
  generalize formatPayload 1#16 1#16 rate byteRate align 8#16 extra = fmt at *
  have hread := readWav_streamOf z fmt rest skipped (by omega) (by omega)
  have hstream : streamOf z fmt skipped rest = headOf z fmt skipped ++ rest := rfl
  have hskipped := scanChunks_skipped skipped (tagRiff ++ le32 z ++ tagWave ++ chunkBytes tagFmt fmt) rest rate
    ((streamOf z fmt skipped rest).length - skipped.length + 1) hskip
  have hbefore : (tagRiff ++ le32 z ++ tagWave ++ chunkBytes tagFmt fmt).length = 20 + fmt.length := by
    simp [chunkBytes, tagRiff, tagWave, tagFmt]
    omega
  have hfuel : (streamOf z fmt skipped rest).length - skipped.length + 1 + skipped.length =
      (streamOf z fmt skipped rest).length + 1 := by
    have := length_skipped_le hskip
    rw [hstream, headOf, List.length_append, List.length_append]
    omega
  rw [hfuel, hbefore] at hskipped
  refine ⟨_, (streamOf z fmt skipped rest).length - skipped.length, rfl, hread.trans ?_⟩
  rw [readFormat, hfmt, hch, hbits, hrate]
  simp only [ne_eq, not_true_eq_false, if_false]
  exact hskipped

/-- Settles O58: marker by marker, then the format sub-chunk, its fields, and the scan. -/
theorem containerRejections : Obligations.ContainerRejections := by
  refine ⟨fun stream h => readWav_badRiff h, fun stream h hl => readWav_sizeCut h hl,
    fun stream h h8 hw => readWav_badWave h h8 hw,
    fun stream h hw => ⟨fun hf => readWav_badFmt h hw hf, fun hf hbad => ?_⟩, ?_⟩
  · rw [readWav_of_markers ⟨h, hw, hf⟩]
    exact readFmtChunk_truncated hbad
  · intro z rate byteRate format channels align bits extra rest skipped hextra hskip stream
    obtain ⟨hfmt, hch, -, hbits, hlen⟩ := formatPayload_fields format channels rate byteRate align bits extra
    have hread : readWav stream = readFormat stream (formatPayload format channels rate byteRate align bits extra)
        (20 + (formatPayload format channels rate byteRate align bits extra).length) :=
      readWav_streamOf z _ rest skipped (by omega) (by omega)
    generalize 20 + (formatPayload format channels rate byteRate align bits extra).length = off at hread
    rw [readFormat, hfmt, hch, hbits] at hread
    refine ⟨fun h1 => ⟨off, hread.trans (if_pos h1)⟩, fun h1 h2 => ⟨off, hread.trans ?_⟩,
      fun h1 h2 h3 => ⟨off, hread.trans ?_⟩, fun h1 h2 h3 => ?_⟩
    · rw [if_neg (not_not.mpr h1), if_pos h2]
    · rw [if_neg (not_not.mpr h1), if_neg (not_not.mpr h2), if_pos h3]
    · subst h1 h2 h3
      obtain ⟨before, fuel, -, hscan⟩ := readWav_scans z rate byteRate align extra rest skipped hextra hskip
      refine ⟨fun hshort => ?_, fun tag payload n hrest htag hcut => ?_⟩
      · rw [show readWav stream = _ from hscan]
        exact scanChunks_short before rest rate fuel hshort
      · rw [show readWav stream = _ from hscan, hrest]
        exact scanChunks_cut before tag payload n rate fuel htag hcut

/-- A stream of the grammar is read to the first of its samples (R82, R95). -/
theorem readWav_grammar (z rate byteRate : Word) (align : BitVec 16) (extra samples trailing : List Byte)
    (skipped : List (List Byte × List Byte)) (hskip : skippable skipped) {stream : List Byte}
    (hstream : stream = streamOf z (formatPayload 1#16 1#16 rate byteRate align 8#16 extra) skipped
      (chunkBytes tagData samples ++ trailing)) (hlt : stream.length < 2 ^ 32) :
    ∃ off, readWav stream = .good off rate (BitVec.ofNat 32 samples.length) ∧
      off + samples.length + trailing.length = stream.length ∧ (stream.drop off).take samples.length = samples := by
  have hlen := (formatPayload_fields 1#16 1#16 rate byteRate align 8#16 extra).2.2.2.2
  have hsplit : stream = headOf z (formatPayload 1#16 1#16 rate byteRate align 8#16 extra) skipped ++
    (chunkBytes tagData samples ++ trailing) := hstream
  have hextra : extra.length + 16 < 2 ^ 32 := by
    rw [hsplit, headOf] at hlt
    simp only [List.length_append, chunkBytes, hlen] at hlt
    omega
  obtain ⟨before, fuel, hbefore, hscan⟩ := readWav_scans z rate byteRate align extra
    (chunkBytes tagData samples ++ trailing) skipped hextra hskip
  rw [← hstream] at hscan
  rw [← hbefore] at hsplit
  have hbytes : stream = (before ++ (tagData ++ le32 (BitVec.ofNat 32 samples.length))) ++ (samples ++ trailing) := by
    rw [hsplit, chunkBytes]
    simp only [List.append_assoc]
  have hhead : (before ++ (tagData ++ le32 (BitVec.ofNat 32 samples.length))).length = before.length + 8 := by
    simp [tagData]
  have hsum : before.length + 8 + samples.length + trailing.length = stream.length := by
    rw [hbytes, List.length_append, hhead, List.length_append]
    omega
  refine ⟨before.length + 8, ?_, hsum, ?_⟩
  · rw [hscan, ← List.append_assoc]
    exact scanChunks_data before samples trailing rate fuel (by omega)
  · rw [hbytes, ← hhead, List.drop_left, List.take_left]

end Sys2Proof.Proofs.Container
end

section
/-! ENCODE and DECODE (40_wav_codec.md): what each stores and answers, and that DECODE undoes ENCODE. -/

namespace Sys2Proof.Proofs.Codec
open Sys2Proof.Machine Sys2Proof.Proofs.Container Sys2Proof.Proofs.Effects

/-! ENCODE. -/

/-- Settles O54. -/
theorem encodeRefusals : Obligations.EncodeRefusals := by
  intro pathId base len sampleRate s hbad
  rcases execEncode_cases pathId base len sampleRate s with ⟨-, e⟩ | ⟨⟨h1, h2⟩, -⟩
  · exact e
  · omega

/-- The 44 bytes before the samples of a canonical container (R78). -/
def containerHeader (rate len : Word) : List Byte :=
  [0x52#8, 0x49#8, 0x46#8, 0x46#8] ++ le32 (36#32 + len) ++
  [0x57#8, 0x41#8, 0x56#8, 0x45#8, 0x66#8, 0x6D#8, 0x74#8, 0x20#8, 16#8, 0#8, 0#8, 0#8, 1#8, 0#8, 1#8, 0#8] ++
  le32 rate ++ le32 rate ++ [1#8, 0#8, 8#8, 0#8, 0x64#8, 0x61#8, 0x74#8, 0x61#8] ++ le32 len

theorem containerHeader_length (rate len : Word) : (containerHeader rate len).length = 44 := rfl

/-- The canonical container is its header and the samples (R78). -/
theorem wavContainer_header (rate : Word) (samples : List Byte) {len : Word} (h : samples.length = len.toNat) :
    wavContainer rate samples = containerHeader rate len ++ samples := by
  have hsize : BitVec.ofNat 32 (36 + samples.length) = 36#32 + len := by
    rw [h, BitVec.ofNat_add, BitVec.ofNat_toNat, BitVec.setWidth_eq]
  have hcount : BitVec.ofNat 32 samples.length = len := by rw [h, BitVec.ofNat_toNat, BitVec.setWidth_eq]
  rw [wavContainer, containerHeader, hsize, hcount]
  simp only [List.append_assoc]
  rfl

/-- Settles O55: the container stored, its header and its samples. -/
theorem encodeStoresTheContainer : Obligations.EncodeStoresTheContainer := by
  intro pathId base len sampleRate s hfit hlen hstored
  rcases execEncode_cases pathId base len sampleRate s with ⟨hbad, -⟩ | ⟨-, s1, rfl, e⟩
  · omega
  obtain ⟨hframe, hsm, hflt, hwvc⟩ := execEncode_frame e
  rw [hstored, if_pos rfl] at e hframe hsm hflt hwvc
  have hcontainer := wavContainer_header sampleRate (s.sm.readList base.toNat len.toNat)
    (SampleMem.readList_length s.sm base.toNat len.toNat)
  refine ⟨_, wavContainer sampleRate (s.sm.readList base.toNat len.toNat), e, cellGet_cellPut_same _ _ _,
    fun k hk => cellGet_cellPut_ne _ _ hk, ?_, ?_, fun i hi => ?_, rfl, rfl, hsm, hframe.playback, hframe.cfg, hframe.cap,
    hflt, hwvc, hframe.boot, hframe.fg, hframe.cancel, rfl⟩
  · rw [hcontainer, List.length_append, SampleMem.readList_length, containerHeader_length]
  · rw [hcontainer]
    exact List.take_left' (containerHeader_length sampleRate len)
  · have hi' : i < (s.sm.readList base.toNat len.toNat).length := by simpa using hi
    rw [hcontainer, List.getElem?_append_right (by rw [containerHeader_length]; omega), containerHeader_length,
      Nat.add_sub_cancel_left, List.getElem?_eq_getElem hi', SampleMem.readList_get]

/-- What a failed write leaves under its identifier and beside it (R49, U6). -/
theorem storageAfter_failed (l : List (Nat × List Byte)) (id : Word) (stream : List Byte) {r : StoreResult}
    (h : r ≠ .stored) :
    (cellGet (storageAfter l id stream r) id.toNat = none ∨
      cellGet (storageAfter l id stream r) id.toNat = cellGet l id.toNat ∨
      ∃ n, cellGet (storageAfter l id stream r) id.toNat = some (stream.take n)) ∧
    ∀ k, k ≠ id.toNat → cellGet (storageAfter l id stream r) k = cellGet l k := by
  cases r with
  | stored => exact absurd rfl h
  | failedAbsent =>
    exact ⟨.inl (by rw [storageAfter, cellGet_cellDrop, if_pos rfl]),
      fun k hk => by rw [storageAfter, cellGet_cellDrop, if_neg hk]⟩
  | failedOld => exact ⟨.inr (.inl rfl), fun _ _ => rfl⟩
  | failedPrefix n =>
    exact ⟨.inr (.inr ⟨n, cellGet_cellPut_same _ _ _⟩), fun k hk => cellGet_cellPut_ne _ _ hk⟩

/-- Settles O56: the write fails, and storage holds what a failed write leaves. -/
theorem encodeFailureLeavesOldOrPrefix : Obligations.EncodeFailureLeavesOldOrPrefix := by
  intro pathId base len sampleRate s hfit hlen hfailed
  rcases execEncode_cases pathId base len sampleRate s with ⟨hbad, -⟩ | ⟨-, s1, rfl, e⟩
  · omega
  obtain ⟨hframe, hsm, hflt, hwvc⟩ := execEncode_frame e
  rw [if_neg hfailed] at e hframe hsm hflt hwvc
  obtain ⟨hown, hother⟩ := storageAfter_failed s.storage pathId
    (wavContainer sampleRate (s.sm.readList base.toNat len.toNat)) hfailed
  exact ⟨_, e, hown, hother, rfl, rfl, hsm, hframe.playback, hframe.cfg, hframe.cap, hflt, hwvc, hframe.boot, hframe.fg,
    hframe.cancel⟩

/-! DECODE. -/

/-- A `StorageRead` gives the stream stored, where it does not fail and the stream is short enough (R49, U7). -/
theorem storageRead_eq_some {s : State} {id : Word} {stream : List Byte} : (s.storageRead id).1 = some stream ↔
    s.drawReadFails.1 = false ∧ cellGet s.storage id.toNat = some stream ∧ stream.length < 2 ^ 32 := by
  rw [storageRead_fst]
  cases s.drawReadFails.1
  · simp [Option.filter_eq_some_iff]
  · simp

/-- The samples DECODE copies (R91). -/
theorem decodeCopy_sm (stream : List Byte) (off : Nat) (rate count dst : Word) (s : State) :
    (decodeCopy stream off rate count dst s).sm =
      s.sm.writeList dst.toNat ((stream.drop off).take count.toNat) := rfl

/-- DECODE of a stream its reader accepts and whose samples fit a region not being played. -/
theorem execDecode_of_good {pathId dst : Word} {s : State} {stream : List Byte} {off : Nat} {rate count : Word}
    (hread : (s.storageRead pathId).1 = some stream) (hwav : readWav stream = .good off rate count)
    (hcheck : decodeCheck dst count.toNat s = none) :
    exec (.decode pathId dst) s = .next (decodeCopy stream off rate count dst s.drawReadFails.2) := by
  rcases execDecode_cases pathId dst s with
    ⟨h, -⟩ | ⟨stream', h, ⟨off', e', hw, -⟩ | ⟨off', rate', count', r, hw, hc, -⟩ | ⟨off', rate', count', hw, -, e⟩⟩ <;>
    rw [hread] at h <;> cases h <;> rw [hwav] at hw <;> cases hw
  · rw [hcheck] at hc
    cases hc
  · exact e

/-- Settles O57: the reader reaches the samples, and they are copied to `dst`. -/
theorem decodeAcceptsTheGrammar : Obligations.DecodeAcceptsTheGrammar := by
  intro pathId dst z rate byteRate align extra samples trailing skipped stream s hstream hskip hlt hok hget hfit hbusy
  obtain ⟨off, hwav, hsum, hsamples⟩ := readWav_grammar z rate byteRate align extra samples trailing skipped hskip hstream hlt
  have hcount : (BitVec.ofNat 32 samples.length).toNat = samples.length := by
    rw [BitVec.toNat_ofNat, Nat.mod_eq_of_lt (by omega)]
  have hcheck : decodeCheck dst (BitVec.ofNat 32 samples.length).toNat s = none := by
    rw [hcount]
    exact decodeCheck_eq_none.mpr ⟨hfit, hbusy⟩
  have hexec := execDecode_of_good (storageRead_eq_some.mpr ⟨hok, hget, hlt⟩) hwav hcheck
  have hsm : (decodeCopy stream off rate (BitVec.ofNat 32 samples.length) dst s.drawReadFails.2).sm =
      s.sm.writeList dst.toNat samples := by
    rw [decodeCopy_sm, hcount, hsamples, State.drawReadFails_sm]
  obtain ⟨hframe, hst, hflt, henv⟩ := decodeCopy_frame stream off rate (BitVec.ofNat 32 samples.length) dst
    s.drawReadFails.2
  refine ⟨_, hexec, fun i hi => ?_, fun a ha => ?_, rfl, ?_, rfl, hframe.playback, hframe.cfg, hframe.cap, hflt, hframe.boot,
    hframe.fg, hframe.cancel, hst, henv⟩
  · rw [hsm, SampleMem.read_writeList_inside _ _ _ _ hi]
  · rw [hsm, SampleMem.read_writeList_outside _ _ _ _ ha]
  · have hoffset : (decodeCopy stream off rate (BitVec.ofNat 32 samples.length) dst s.drawReadFails.2).wvc.offset.toNat =
        (off + (BitVec.ofNat 32 samples.length).toNat) % 2 ^ 32 := rfl
    rw [hoffset, hcount, Nat.mod_eq_of_lt (by omega)]
    exact hsum

/-- Settles O59: the cases of DECODE, each with its response. -/
theorem decodeFailuresWriteNothing : Obligations.DecodeFailuresWriteNothing := by
  intro pathId dst s
  rcases execDecode_cases pathId dst s with
    ⟨hnone, e⟩ | ⟨stream, hsome, hcases⟩
  · refine ⟨_, .ioError, e, rfl, fun _ => ⟨rfl, rfl⟩, fun hok stream hget hlt => ?_, fun _ => ⟨rfl, rfl⟩, rfl,
      ⟨rfl, rfl, rfl, rfl⟩, rfl, rfl, rfl, rfl, rfl, rfl⟩
    rw [storageRead_eq_some.mpr ⟨hok, hget, hlt⟩] at hnone
    cases hnone
  obtain ⟨hok, hget, -⟩ := storageRead_eq_some.mp hsome
  have nofail {P : Prop} (h : s.drawReadFails.1 = true ∨ cellGet s.storage pathId.toNat = none) : P := by
    rcases h with h | h
    · rw [hok] at h; cases h
    · rw [hget] at h; cases h
  rcases hcases with ⟨off, err, hwav, e⟩ | ⟨off, rate, count, r, hwav, hcheck, e⟩ | ⟨off, rate, count, hwav, hcheck, e⟩
  · refine ⟨_, .formatError err, e, rfl, nofail, fun _ stream' hget' _ => ?_, fun _ => ⟨rfl, rfl⟩, rfl,
      ⟨rfl, rfl, rfl, rfl⟩, rfl, rfl, rfl, rfl, rfl, rfl⟩
    obtain rfl := Option.some.inj (hget.symm.trans hget')
    rw [hwav]
    exact ⟨fun _ _ h => (by cases h; rfl), fun _ _ _ h => by cases h⟩
  · refine ⟨_, r, e, rfl, nofail, fun _ stream' hget' _ => ?_, fun _ => ⟨rfl, rfl⟩, rfl, ⟨rfl, rfl, rfl, rfl⟩, rfl, rfl,
      rfl, rfl, rfl, rfl⟩
    obtain rfl := Option.some.inj (hget.symm.trans hget')
    rw [hwav]
    refine ⟨fun _ _ h => (by cases h), fun _ _ _ h => ?_⟩
    cases h
    refine ⟨fun hout => ?_, fun hfit hbusy => ?_⟩
    · simp only [decodeCheck, regionFits, decide_eq_false (not_le.mpr hout), Bool.not_false, if_true] at hcheck
      exact (Option.some.inj hcheck).symm
    · simp only [decodeCheck, regionFits_iff.mpr hfit, hbusy, Bool.not_true, Bool.false_eq_true, if_false,
        if_true] at hcheck
      exact (Option.some.inj hcheck).symm
  · obtain ⟨hfit, hbusy⟩ := decodeCheck_eq_none.mp hcheck
    obtain ⟨hframe, hst, hflt, -⟩ := decodeCopy_frame stream off rate count dst s.drawReadFails.2
    refine ⟨_, .decoded count rate, e, rfl, nofail, fun _ stream' hget' _ => ?_, fun h => absurd rfl (h count rate), hst,
      hframe.playback, hframe.cfg, hframe.cap, hflt, hframe.boot, hframe.fg, hframe.cancel⟩
    obtain rfl := Option.some.inj (hget.symm.trans hget')
    rw [hwav]
    refine ⟨fun _ _ h => (by cases h), fun _ _ _ h => ?_⟩
    cases h
    exact ⟨fun hout => by omega, fun _ hb => by rw [hbusy] at hb; cases hb⟩

/-! The round trip. -/

/-- An ENCODE that answered OK stored the container. -/
theorem stored_of_encode_ok {pathId base len sampleRate : Word} {s t : State}
    (h : exec (.encode pathId base len sampleRate) s = .next t) (hok : t.cmd.tx = s.cmd.tx ++ [.ok]) :
    cellGet t.storage pathId.toNat = some (wavContainer sampleRate (s.sm.readList base.toNat len.toNat)) := by
  have answered {r : Response} (hr : t.cmd.tx = s.cmd.tx ++ [r]) : r = .ok := by
    simpa using hr.symm.trans hok
  rcases execEncode_cases pathId base len sampleRate s with ⟨-, e⟩ | ⟨-, s1, rfl, e⟩ <;>
    obtain rfl := Host.Outcome.next.inj (e.symm.trans h)
  · cases answered (r := .argumentError) rfl
  · by_cases hs : s.drawStoreResult.1 = .stored
    · rw [if_pos hs, hs]
      exact cellGet_cellPut_same _ _ _
    · rw [if_neg hs] at answered
      cases answered (r := .ioError) rfl

/-- Settles O60: the container is a stream of the grammar with nothing skipped and nothing after its samples. -/
theorem decodeOfEncodeIsTheBuffer : Obligations.DecodeOfEncodeIsTheBuffer := by
  intro pathId base len sampleRate dst s t u h hok hlt hsame hread hfit hbusy
  have hstored := hsame.trans (stored_of_encode_ok h hok)
  generalize hsamples : s.sm.readList base.toNat len.toNat = samples at hstored
  have hlen : samples.length = len.toNat := by rw [← hsamples, SampleMem.readList_length]
  have hword : BitVec.ofNat 32 samples.length = len := by rw [hlen, BitVec.ofNat_toNat, BitVec.setWidth_eq]
  have hstream : (wavContainer sampleRate samples).length < 2 ^ 32 := by
    rw [wavContainer_header sampleRate samples hlen, List.length_append, hlen]
    exact hlt
  obtain ⟨v, hexec, hinside, -, -, -, hcmd, -⟩ := decodeAcceptsTheGrammar pathId dst _ sampleRate sampleRate 1#16 []
    samples [] [] _ u (by rw [List.append_nil]; exact wavContainer_eq sampleRate samples) (by simp [skippable]) hstream
    hread hstored (by rw [hlen]; exact hfit) (by rw [hlen]; exact hbusy)
  rw [hword] at hcmd
  refine ⟨v, hexec, by rw [hcmd], fun i hi => ?_⟩
  rw [hinside i (by rw [hlen]; exact hi)]
  simp only [← hsamples, SampleMem.readList_get]

end Sys2Proof.Proofs.Codec
end
